-- ==== Sys2Proof/Word.lean ====
section
/-! DEFINITION. The word types of the block (00 R7, R8) and the plain shapes its state is built from:
a value per channel, a value per filter stage, a coefficient set, a delay line. -/

namespace Sys2Proof

/-- A word is 32 bits, bit 31 the most significant (R7). -/
abbrev Word := BitVec 32

/-- An unsigned 32-bit integer, with arithmetic modulo 2^32 (R8, R10). -/
abbrev U32 := BitVec 32

/-- A byte of a byte-addressed bus that carries the word ports (R72); nothing inside the block is a byte. -/
abbrev Byte := BitVec 8

/-- A real-valued word (R8): a bit pattern of the format NUM, which is a parameter (R6). A type of its own, so that the
integer arithmetic of bit vectors cannot be applied to it by mistake. -/
structure NUM where
  bits : Word
  deriving DecidableEq, Repr, Inhabited

/-- Channel or instance 0 (left, mid) or 1 (right, side) (R17). -/
inductive Chan where
  | ch0
  | ch1
  deriving DecidableEq, Repr

/-- One value per channel: NCH is at most 2 (R6). -/
structure Duo (α : Type) where
  ch0 : α
  ch1 : α
  deriving DecidableEq, Repr

/-- The value of channel `c`. -/
def Duo.get {α : Type} (d : Duo α) : Chan → α
  | .ch0 => d.ch0
  | .ch1 => d.ch1

/-- Channel `c` holds `v`; the other channel is untouched. -/
def Duo.set {α : Type} (d : Duo α) (c : Chan) (v : α) : Duo α :=
  match c with
  | .ch0 => { d with ch0 := v }
  | .ch1 => { d with ch1 := v }

/-- Both channels through `f`. -/
def Duo.map {α β : Type} (f : α → β) (d : Duo α) : Duo β :=
  { ch0 := f d.ch0, ch1 := f d.ch1 }

/-- The same value on both channels. -/
def Duo.both {α : Type} (v : α) : Duo α := { ch0 := v, ch1 := v }

/-- One value per stage of a chain: NSTAGE is at most 4 (R6). -/
structure Four (α : Type) where
  s0 : α
  s1 : α
  s2 : α
  s3 : α
  deriving DecidableEq, Repr

/-- The value of stage `i`. -/
def Four.get {α : Type} (q : Four α) : Fin 4 → α
  | 0 => q.s0
  | 1 => q.s1
  | 2 => q.s2
  | 3 => q.s3

/-- All four stages through `f`. -/
def Four.map {α β : Type} (f : α → β) (q : Four α) : Four β :=
  { s0 := f q.s0, s1 := f q.s1, s2 := f q.s2, s3 := f q.s3 }

/-- The same value in all four stages. -/
def Four.all {α : Type} (v : α) : Four α := { s0 := v, s1 := v, s2 := v, s3 := v }

/-- A coefficient set with a0 normalised to 1 (R35). -/
structure Coef where
  b0 : NUM
  b1 : NUM
  b2 : NUM
  a1 : NUM
  a2 : NUM
  deriving DecidableEq, Repr

/-- A delay line (R36): the last two inputs and the last two outputs. -/
structure Delay where
  x1 : NUM
  x2 : NUM
  y1 : NUM
  y2 : NUM
  deriving DecidableEq, Repr

end Sys2Proof
end

