-- ==== Sys2Proof/Syntax.lean ====
section
/-! DEFINITION. The commands of the block: one constructor for each of the 31 rows of 30 R94, with the operands of
the assembler syntax of 30 R99. -/

namespace Sys2Proof

/-- The filter type of a chain: code 0 is low-pass, code 1 high-pass (R37). -/
inductive FilterType where
  | lowPass
  | highPass
  deriving DecidableEq, Repr

/-- A command. Small numbers (the unit mask of RESET, the address of RDR, the order request of CH.SETP) are plain
numbers, bounded in WellFormed.lean; real operands are NUM words, of which every pattern is accepted (R97). -/
inductive Instr where
  -- system commands
  | nop
  | prepare (fs : NUM) (bs : U32)
  | reset (units : Nat)
  | rsti
  | rdr (addr : Nat)
  -- BQ: biquad_iir_filter
  | bqSetc (c : Chan) (b0 b1 b2 a1 a2 : NUM)
  | bqStep (c : Chan) (x : NUM)
  | bqRst (c : Chan)
  -- CH: cascaded_iir_chain
  | chSetp (c : Chan) (ty : FilterType) (orderReq : Nat) (freq : NUM)
  | chEn (c : Chan) (en : Bool)
  | chStep (c : Chan) (x : NUM)
  | chRst (c : Chan)
  -- DYN: envelope_follower and gain_computer
  | dynThr (v : NUM)
  | dynRat (v : NUM)
  | dynKne (v : NUM)
  | dynAtt (v : NUM)
  | dynRel (v : NUM)
  | dynLnk (v : NUM)
  | dynAuto (en : Bool)
  | envStep (c : Chan) (level : NUM)
  | gcEval (e : NUM)
  | dynStep (sL sR : NUM)
  | dynStepm (x : NUM)
  | dynPub
  -- KW and SW: k_weighting_filter and sliding_window_accumulator
  | kwStep (c : Chan) (x : NUM)
  | swPush (p : NUM)
  | lmPub
  -- GI, LA and LM: gated_integrator and loudness_accumulator
  | giAcc (p : NUM)
  | laOffer (ms : NUM)
  | lmStep (xL xR : NUM)
  | lmStepm (x : NUM)
  deriving DecidableEq, Repr

end Sys2Proof
end

