-- ==== Sys2Proof/WellFormed.lean ====
section
/-! DEFINITION. Which commands an encoding exists for: the number operands fit their header fields (30 R93).
Channels, flags and filter types are in range by their types. -/

namespace Sys2Proof

/-- R93: the mask of RESET has 4 bits (d), the address of RDR 16 (a), the order request of CH.SETP 4 (b).
Every other command is well formed whatever its operands. -/
def Instr.wellFormed : Instr → Bool
  | .reset units => decide (units < 16)
  | .rdr addr => decide (addr < 65536)
  | .chSetp _ _ orderReq _ => decide (orderReq < 16)
  | .nop | .prepare _ _ | .rsti
  | .bqSetc _ _ _ _ _ _ | .bqStep _ _ | .bqRst _
  | .chEn _ _ | .chStep _ _ | .chRst _
  | .dynThr _ | .dynRat _ | .dynKne _ | .dynAtt _ | .dynRel _ | .dynLnk _ | .dynAuto _
  | .envStep _ _ | .gcEval _ | .dynStep _ _ | .dynStepm _ | .dynPub
  | .kwStep _ _ | .swPush _ | .lmPub
  | .giAcc _ | .laOffer _ | .lmStep _ _ | .lmStepm _ => true

end Sys2Proof
end

