-- ==== Sys2Proof/Decode.lean ====
section
/-! DEFINITION. Packets to commands and back (30_encoding.md): the header's fields (R91), packet lengths and response
counts (R94, R95), the decoder, the opcode map as a table of match and mask, the encoder, and the reading of an
opcode-table word. -/

namespace Sys2Proof

/-- OPC, bits 31:24 of a header (R91). -/
def opcOf (h : Word) : Nat := h.toNat / 2 ^ 24

/-- CH, bits 23:20 (R91). -/
def chOf (h : Word) : Nat := h.toNat / 2 ^ 20 % 16

/-- SUB, bits 19:16 (R91). -/
def subOf (h : Word) : Nat := h.toNat / 2 ^ 16 % 16

/-- IMM, bits 15:0 (R91). -/
def immOf (h : Word) : Nat := h.toNat % 2 ^ 16

/-- `nops(OPC)`: how many operand words follow a header, for every OPC value, known or not (R95 step 1). -/
def nops : Nat → Nat
  | 0x01 | 0x34 | 0x44 => 2
  | 0x10 => 5
  | 0x11 | 0x20 | 0x22 | 0x30 | 0x32 | 0x33 | 0x35 | 0x40 | 0x41 | 0x42 | 0x43 | 0x45 => 1
  | _ => 0

/-- The "resp" column of R94 by OPC: what a command of that OPC answers, executed (R101) or discarded (60 R270 (4)).
None for an OPC that R94 does not list. -/
def respWords : Nat → Nat
  | 0x04 | 0x11 | 0x22 | 0x32 | 0x35 | 0x40 => 1
  | 0x33 | 0x34 => 2
  | _ => 0

/-- The channel a CH field names; a field above 1 names none (R93 f). -/
def chanOf : Nat → Option Chan
  | 0 => some .ch0
  | 1 => some .ch1
  | _ => none

/-- A command of format Z, if its reserved bits are zero (`ok`) and no operand follows (R92). -/
def formZ (ok : Bool) (ops : List Word) (i : Instr) : Option Instr :=
  match ops with
  | [] => if ok then some i else none
  | _ => none

/-- Format S: one operand word. -/
def formS (ok : Bool) (ops : List Word) (f : NUM → Instr) : Option Instr :=
  match ops with
  | [a] => if ok then some (f ⟨a⟩) else none
  | _ => none

/-- Format D: two operand words. -/
def formD (ok : Bool) (ops : List Word) (f : NUM → Word → Instr) : Option Instr :=
  match ops with
  | [a, b] => if ok then some (f ⟨a⟩ b) else none
  | _ => none

/-- Format Q: five operand words. -/
def formQ (ok : Bool) (ops : List Word) (f : NUM → NUM → NUM → NUM → NUM → Instr) : Option Instr :=
  match ops with
  | [a, b, c, d, e] => if ok then some (f ⟨a⟩ ⟨b⟩ ⟨c⟩ ⟨d⟩ ⟨e⟩) else none
  | _ => none

/-- The six parameter commands that share OPC 0x30, by SUB (R94); SUB 6 to 15 names none (R96). -/
def dynParam (sub : Nat) (ok : Bool) (ops : List Word) : Option Instr :=
  match sub with
  | 0 => formS ok ops .dynThr
  | 1 => formS ok ops .dynRat
  | 2 => formS ok ops .dynKne
  | 3 => formS ok ops .dynAtt
  | 4 => formS ok ops .dynRel
  | 5 => formS ok ops .dynLnk
  | _ => none

/-- The command of a header with these four fields and these operand words; none where the header matches no row of
R94 (R95 step 2) or the operands are not as many as the format has. -/
def decodeFields (opc ch sub imm : Nat) (ops : List Word) : Option Instr :=
  let none' : Bool := ch == 0 && sub == 0 && imm == 0
  let rest0 : Bool := sub == 0 && imm == 0
  match opc with
  | 0x00 => formZ none' ops .nop
  | 0x01 => formD none' ops .prepare
  | 0x02 => formZ (ch == 0 && imm == 0) ops (.reset sub)
  | 0x03 => formZ none' ops .rsti
  | 0x04 => formZ (ch == 0 && sub == 0) ops (.rdr imm)
  | 0x10 => (chanOf ch).bind fun c => formQ rest0 ops (.bqSetc c)
  | 0x11 => (chanOf ch).bind fun c => formS rest0 ops (.bqStep c)
  | 0x12 => (chanOf ch).bind fun c => formZ rest0 ops (.bqRst c)
  | 0x20 => (chanOf ch).bind fun c =>
      formS (sub == 0 && imm / 2 ^ 9 == 0 && imm / 2 ^ 4 % 16 == 0) ops
        (.chSetp c (if imm / 2 ^ 8 % 2 = 1 then .highPass else .lowPass) (imm % 16))
  | 0x21 => (chanOf ch).bind fun c => formZ (sub == 0 && imm / 2 == 0) ops (.chEn c (imm % 2 == 1))
  | 0x22 => (chanOf ch).bind fun c => formS rest0 ops (.chStep c)
  | 0x23 => (chanOf ch).bind fun c => formZ rest0 ops (.chRst c)
  | 0x30 => dynParam sub (ch == 0 && imm == 0) ops
  | 0x31 => formZ (ch == 0 && sub == 0 && imm / 2 == 0) ops (.dynAuto (imm % 2 == 1))
  | 0x32 => (chanOf ch).bind fun c => formS rest0 ops (.envStep c)
  | 0x33 => formS none' ops .gcEval
  | 0x34 => formD none' ops fun l r => .dynStep l ⟨r⟩
  | 0x35 => formS none' ops .dynStepm
  | 0x36 => formZ none' ops .dynPub
  | 0x40 => (chanOf ch).bind fun c => formS rest0 ops (.kwStep c)
  | 0x41 => formS none' ops .swPush
  | 0x42 => formS none' ops .giAcc
  | 0x43 => formS none' ops .laOffer
  | 0x44 => formD none' ops fun l r => .lmStep l ⟨r⟩
  | 0x45 => formS none' ops .lmStepm
  | 0x46 => formZ none' ops .lmPub
  | _ => none

/-- The command of a packet: header and operand words. -/
def decodePacket (h : Word) (ops : List Word) : Option Instr :=
  decodeFields (opcOf h) (chOf h) (subOf h) (immOf h) ops

/-- Why words present no command. -/
inductive Reject where
  /-- Fewer words than the packet has: the header or some operand is missing (30 R90). -/
  | incomplete
  /-- The header matches no row of 30 R94: cause X1 (60 R271). -/
  | illegal (header : Word)
  deriving DecidableEq, Repr

/-- The packet at the head of a stream of words: its header, its `nops(OPC)` operand words and the words after it; none
while a word of it is still missing (R90, R95 step 1). -/
def splitPacket : List Word → Option (Word × List Word × List Word)
  | [] => none
  | h :: rest =>
    if nops (opcOf h) ≤ rest.length then
      some (h, rest.take (nops (opcOf h)), rest.drop (nops (opcOf h)))
    else none

/-- The command at the head of a stream of words, or by name why there is none. Total (R95, last sentence). -/
def decode (ws : List Word) : Except Reject Instr :=
  match splitPacket ws with
  | none => .error .incomplete
  | some (h, ops, _) =>
    match decodePacket h ops with
    | some i => .ok i
    | none => .error (.illegal h)

/-! ### The opcode map as a table -/

/-- A row of R94: a header `h` selects it iff `h &&& mask = bits`. -/
structure Row where
  mnemonic : String
  bits : Word
  mask : Word
  resp : Nat
  deriving DecidableEq, Repr

def Row.selects (r : Row) (h : Word) : Bool := h &&& r.mask == r.bits

/-- The 31 rows of R94, transcribed. -/
def opcodeMap : List Row := [
  ⟨"NOP", 0x00000000, 0xFFFFFFFF, 0⟩, ⟨"PREPARE", 0x01000000, 0xFFFFFFFF, 0⟩,
  ⟨"RESET", 0x02000000, 0xFFF0FFFF, 0⟩, ⟨"RSTI", 0x03000000, 0xFFFFFFFF, 0⟩,
  ⟨"RDR", 0x04000000, 0xFFFF0000, 1⟩,
  ⟨"BQ.SETC", 0x10000000, 0xFFEFFFFF, 0⟩, ⟨"BQ.STEP", 0x11000000, 0xFFEFFFFF, 1⟩,
  ⟨"BQ.RST", 0x12000000, 0xFFEFFFFF, 0⟩,
  ⟨"CH.SETP", 0x20000000, 0xFFEFFEF0, 0⟩, ⟨"CH.EN", 0x21000000, 0xFFEFFFFE, 0⟩,
  ⟨"CH.STEP", 0x22000000, 0xFFEFFFFF, 1⟩, ⟨"CH.RST", 0x23000000, 0xFFEFFFFF, 0⟩,
  ⟨"DYN.THR", 0x30000000, 0xFFFFFFFF, 0⟩, ⟨"DYN.RAT", 0x30010000, 0xFFFFFFFF, 0⟩,
  ⟨"DYN.KNE", 0x30020000, 0xFFFFFFFF, 0⟩, ⟨"DYN.ATT", 0x30030000, 0xFFFFFFFF, 0⟩,
  ⟨"DYN.REL", 0x30040000, 0xFFFFFFFF, 0⟩, ⟨"DYN.LNK", 0x30050000, 0xFFFFFFFF, 0⟩,
  ⟨"DYN.AUTO", 0x31000000, 0xFFFFFFFE, 0⟩,
  ⟨"ENV.STEP", 0x32000000, 0xFFEFFFFF, 1⟩, ⟨"GC.EVAL", 0x33000000, 0xFFFFFFFF, 2⟩,
  ⟨"DYN.STEP", 0x34000000, 0xFFFFFFFF, 2⟩, ⟨"DYN.STEPM", 0x35000000, 0xFFFFFFFF, 1⟩,
  ⟨"DYN.PUB", 0x36000000, 0xFFFFFFFF, 0⟩,
  ⟨"KW.STEP", 0x40000000, 0xFFEFFFFF, 1⟩, ⟨"SW.PUSH", 0x41000000, 0xFFFFFFFF, 0⟩,
  ⟨"LM.PUB", 0x46000000, 0xFFFFFFFF, 0⟩,
  ⟨"GI.ACC", 0x42000000, 0xFFFFFFFF, 0⟩, ⟨"LA.OFFER", 0x43000000, 0xFFFFFFFF, 0⟩,
  ⟨"LM.STEP", 0x44000000, 0xFFFFFFFF, 0⟩, ⟨"LM.STEPM", 0x45000000, 0xFFFFFFFF, 0⟩]

/-- R95 step 2: some row selects the header. -/
def headerLegal (h : Word) : Bool := opcodeMap.any fun r => r.selects h

/-! ### The encoder -/

/-- A header from its four fields (R91). -/
def headerWord (opc ch sub imm : Nat) : Word :=
  BitVec.ofNat 32 (opc * 2 ^ 24 + ch * 2 ^ 20 + sub * 2 ^ 16 + imm)

/-- The CH field of a channel. -/
def Chan.code : Chan → Nat
  | .ch0 => 0
  | .ch1 => 1

/-- The code of a filter type in the header and in TYPE (R37, R93 b). -/
def FilterType.code : FilterType → Nat
  | .lowPass => 0
  | .highPass => 1

/-- A flag as a number. -/
def bit (b : Bool) : Nat := if b then 1 else 0

/-- The words of a command: the header of its R94 row, then its operands in the order of R99. -/
def encode : Instr → List Word
  | .nop => [headerWord 0x00 0 0 0]
  | .prepare fs bs => [headerWord 0x01 0 0 0, fs.bits, bs]
  | .reset units => [headerWord 0x02 0 (units % 16) 0]
  | .rsti => [headerWord 0x03 0 0 0]
  | .rdr addr => [headerWord 0x04 0 0 (addr % 65536)]
  | .bqSetc c b0 b1 b2 a1 a2 => [headerWord 0x10 c.code 0 0, b0.bits, b1.bits, b2.bits, a1.bits, a2.bits]
  | .bqStep c x => [headerWord 0x11 c.code 0 0, x.bits]
  | .bqRst c => [headerWord 0x12 c.code 0 0]
  | .chSetp c ty orderReq freq => [headerWord 0x20 c.code 0 (ty.code * 2 ^ 8 + orderReq % 16), freq.bits]
  | .chEn c en => [headerWord 0x21 c.code 0 (bit en)]
  | .chStep c x => [headerWord 0x22 c.code 0 0, x.bits]
  | .chRst c => [headerWord 0x23 c.code 0 0]
  | .dynThr v => [headerWord 0x30 0 0 0, v.bits]
  | .dynRat v => [headerWord 0x30 0 1 0, v.bits]
  | .dynKne v => [headerWord 0x30 0 2 0, v.bits]
  | .dynAtt v => [headerWord 0x30 0 3 0, v.bits]
  | .dynRel v => [headerWord 0x30 0 4 0, v.bits]
  | .dynLnk v => [headerWord 0x30 0 5 0, v.bits]
  | .dynAuto en => [headerWord 0x31 0 0 (bit en)]
  | .envStep c level => [headerWord 0x32 c.code 0 0, level.bits]
  | .gcEval e => [headerWord 0x33 0 0 0, e.bits]
  | .dynStep sL sR => [headerWord 0x34 0 0 0, sL.bits, sR.bits]
  | .dynStepm x => [headerWord 0x35 0 0 0, x.bits]
  | .dynPub => [headerWord 0x36 0 0 0]
  | .kwStep c x => [headerWord 0x40 c.code 0 0, x.bits]
  | .swPush p => [headerWord 0x41 0 0 0, p.bits]
  | .lmPub => [headerWord 0x46 0 0 0]
  | .giAcc p => [headerWord 0x42 0 0 0, p.bits]
  | .laOffer ms => [headerWord 0x43 0 0 0, ms.bits]
  | .lmStep xL xR => [headerWord 0x44 0 0 0, xL.bits, xR.bits]
  | .lmStepm x => [headerWord 0x45 0 0 0, x.bits]

/-! ### A word of the opcode table -/

/-- The words of an instruction whose bits are `w`, bit 0 the least significant bit of the first word; bits from `nbits`
on are 0, up to the six words of the longest packet. The ports are word-wide, so there is no byte order (20 R72). -/
def tableWords (nbits w : Nat) : List Word :=
  (List.range 6).map fun k => BitVec.ofNat 32 (w % 2 ^ nbits / 2 ^ (32 * k))

/-- The instruction the decoder reads from the table's bits. -/
def decodeTableWord (nbits w : Nat) : Option Instr :=
  match decode (tableWords nbits w) with
  | .ok i => some i
  | .error _ => none

end Sys2Proof
end

