-- ==== Sys2Proof/Config.lean ====
section
/-! DEFINITION. What the spec leaves to an implementation (00 R6, 93 U1 to U10): the agents and their ports, the record
of the parameters, and the free values, which are constants without a body. -/

namespace Sys2Proof

/-- The three agents, one port pair each (20 R74): processing, control, reader. -/
inductive Agent where
  | processing
  | control
  | reader
  deriving DecidableEq, Repr, Inhabited

/-- The parameter NUM (00 R6, R8): an IEEE 754 binary format that fills a word with a sign bit, `expCode + 2` exponent
bits and the rest fraction bits; and whether a result below the smallest normal number is flushed to zero (93 U3). Which
formats the parameter ranges over is a choice of the model (log 1). -/
structure NumFormat where
  expCode : Fin 29
  flush : Bool
  deriving DecidableEq, Repr, Inhabited

/-- NCH (00 R6): the channels per unit type, 2 in the source, which "operates on up to 2 channels" (00 R3); the channel
field of a header is one bit (30 R93 f). Log 3. -/
inductive ChannelCount where
  | one
  | two
  deriving DecidableEq, Repr

def ChannelCount.toNat : ChannelCount → Nat
  | .one => 1
  | .two => 2

/-- NSTAGE (00 R6): the biquad stages of a chain, 4 in the source, which "holds up to 4 Biquad stages" (10 R38). Log 3. -/
inductive StageCount where
  | one
  | two
  | three
  | four
  deriving DecidableEq, Repr

def StageCount.toNat : StageCount → Nat
  | .one => 1
  | .two => 2
  | .three => 3
  | .four => 4

/-- The words an instance of a configuration function delivers, where they are not those of the model's formula for it: a
table of levels, each with the value from that level on, and how many steps of the format a word may be away from the
formula's. With no slack the formula's words are delivered (logs 6 and 7). -/
structure Fit where
  slack : Nat
  steps : List (NUM × NUM)
  deriving DecidableEq, Repr

/-- Instances of the configuration function AUTOREL_MAP (43 R177): decreasing, onto the release range, and linear. -/
inductive AutoRelMap where
  /-- The default, `500 - 450 * clamp(a, 0, 1)`. -/
  | linear
  /-- Any other: the release time falls linearly from AR_REL_MAX at level `lo` and below to AR_REL_MIN at level `hi` and
  above, for finite `lo < hi`, with the words of `fit` (93 U7, log 7). -/
  | other (lo hi : NUM) (fit : Fit)
  deriving DecidableEq, Repr

/-- Which distance in dB a blended ratio is applied to inside the knee window (43 R181, log 6). -/
inductive KneeSpan where
  /-- Half the distance past the knee start, as in the default. -/
  | pastStart
  /-- The distance above the threshold, none below it. -/
  | overThreshold
  deriving DecidableEq, Repr

/-- What the quadratic blend of the effective ratio interpolates, from ratio 1 towards ratio R (43 R181, log 6). -/
inductive KneeBlend where
  /-- The ratio itself. -/
  | ratio
  /-- `1 - 1 / ratio`, the slope of the reduction. -/
  | slope
  deriving DecidableEq, Repr

/-- What another KNEE_CURVE is at one threshold, width and ratio: the coefficients of its quadratic blend, and its words
(43 R181 P3, log 6). -/
structure KneeRow where
  t : NUM
  w : NUM
  r : NUM
  mid : NUM
  fin : NUM
  fit : Fit
  deriving DecidableEq, Repr

/-- Instances of the configuration function KNEE_CURVE (43 R181). -/
inductive KneeCurve where
  /-- The default quadratic interpolation. -/
  | quadratic
  /-- Any other quadratic blend inside the knee window: at the thresholds, widths and ratios of `rows` as the row says, at
  all others with free coefficients (93 U6, log 6). -/
  | other (span : KneeSpan) (blend : KneeBlend) (rows : List KneeRow)
  deriving DecidableEq, Repr

/-- BUS_ENDIAN (20 R72): the byte order of a byte-addressed bus that carries the word ports. -/
inductive Endian where
  | little
  | big
  deriving DecidableEq, Repr

/-- An exact fraction of seconds: the counts of 10 R34 are taken over exact reals. -/
structure Frac where
  num : Nat
  den : Nat
  deriving DecidableEq, Repr

/-- The parameters of 00 R6 as plain data, so that a statement about every state is a statement about every configuration;
and the depth of the response ports (70 R300). The elementary functions are the opaque constants below. -/
structure Params where
  /-- NCH. -/
  nch : ChannelCount
  /-- NSTAGE. -/
  nstage : StageCount
  /-- NUM. -/
  num : NumFormat
  /-- FS_MIN, FS_MAX: the sample rates PREPARE accepts, Hz. -/
  fsMin : NUM
  fsMax : NUM
  /-- BLK_CAP: the capacity of the accepted-block history. -/
  blkCap : U32
  /-- The Q table (40 R123): orders 1 and 2; order 3, stages 0 and 1; order 4, stages 0 and 1. -/
  q1 : NUM
  q2 : NUM
  q3s0 : NUM
  q3s1 : NUM
  q4s0 : NUM
  q4s1 : NUM
  /-- QFILL3, QFILL4: the cells the table lacks. -/
  qFill3 : NUM
  qFill4 : NUM
  /-- CH_FMIN, CH_FMAXK: a chain's corner frequency stays in [CH_FMIN Hz, CH_FMAXK * FS]. -/
  chFmin : NUM
  chFmaxK : NUM
  /-- The clamps of the DYN parameters: dB, ratio, dB, ms, ms, and the stereo link. -/
  thrMin : NUM
  thrMax : NUM
  ratMin : NUM
  ratMax : NUM
  kneMin : NUM
  kneMax : NUM
  attMin : NUM
  attMax : NUM
  relMin : NUM
  relMax : NUM
  lnkMin : NUM
  lnkMax : NUM
  /-- AR_TAU_MS, and the release range AR_REL_MIN, AR_REL_MAX, ms. -/
  arTauMs : NUM
  arRelMin : NUM
  arRelMax : NUM
  autoRelMap : AutoRelMap
  kneeCurve : KneeCurve
  /-- K-weighting: KW1_F0 Hz, KW1_G dB, KW1_Q; KW2_F0 Hz, KW2_Q. -/
  kw1F0 : NUM
  kw1G : NUM
  kw1Q : NUM
  kw2F0 : NUM
  kw2Q : NUM
  /-- T_MOM, T_ST, T_BLK, seconds. -/
  tMom : Frac
  tSt : Frac
  tBlk : Frac
  /-- LUFS_OFS, MS_FLOOR. -/
  lufsOfs : NUM
  msFloor : NUM
  /-- ABS_GATE, LUFS; REL_GATE, dB below the ungated loudness. -/
  absGate : NUM
  relGate : NUM
  /-- LRA_MINBLK: LRA needs more blocks than this; DR_MAX, dB. -/
  lraMinBlk : U32
  drMax : NUM
  /-- DB_FLOOR, dB. -/
  dbFloor : NUM
  /-- BUS_ENDIAN. -/
  busEndian : Endian
  /-- Words a response port holds beyond the two that every one holds (70 R300). -/
  respExtra : Nat
  deriving DecidableEq, Repr

/-- Which operation an unstated result belongs to. -/
inductive NumOp where
  | add
  | sub
  | mul
  | div
  | max
  | min
  | sqrt
  deriving DecidableEq, Repr

/-- Which comparison an unstated outcome belongs to. -/
inductive NumTest where
  | gt
  | lt
  | ge
  | le
  | eq
  deriving DecidableEq, Repr

/-! The elementary functions on NUM: total functions of their operands that the spec does not fix (00 R9, 93 U4). -/

opaque Config.fsin : NumFormat → NUM → NUM
opaque Config.fcos : NumFormat → NUM → NUM
opaque Config.ftan : NumFormat → NUM → NUM
opaque Config.fexp : NumFormat → NUM → NUM
opaque Config.flog10 : NumFormat → NUM → NUM
opaque Config.fpow : NumFormat → NUM → NUM → NUM

/-- The word an operation delivers where the spec gives none: an operand that is a NaN or an infinity (93 U1). -/
opaque Config.openResult : NumFormat → NumOp → NUM → NUM → NUM

/-- Where the sign and the fraction of the NaN are read that an invalid operation on finite operands delivers: the spec
does not state its pattern (60 R272). -/
opaque Config.openNaN : NumFormat → NumOp → NUM → NUM → NUM

/-- The outcome of a comparison with an operand that is a NaN or an infinity (93 U1). -/
opaque Config.openTest : NumFormat → NumTest → NUM → NUM → Bool

/-- The two coefficients of the quadratic blend of a KNEE_CURVE other than the default, as magnitude patterns, for a
threshold, a width and a ratio that its rows do not list (93 U6). -/
opaque Config.kneeMid : NumFormat → NUM → NUM → NUM → Nat
opaque Config.kneeEnd : NumFormat → NUM → NUM → NUM → Nat

/-- The arbiter's choice among the ports that can be served, at the packet of that number (20 R78 c, 93 U5). -/
opaque Config.arbiterChoice : Nat → Nat

end Sys2Proof
end

