-- ==== Sys2Proof/Machine/Num.lean ====
section
/-! DEFINITION. Arithmetic on NUM (00 R8, R9) for every format `F` the parameter NUM ranges over: IEEE 754, every operation
computed exactly on integers and rounded once to nearest even; the conversions of R8; the comparisons.

A finite NUM is an integer number of units, a unit being the smallest subnormal number (`units`, `toInt`), and a magnitude
pattern (the low 31 bits) grows with the value, so that rounding (`roundMag`) is one division of integers. Finite operands
give the results IEEE 754 states, with overflow and a non-zero dividend over zero delivering an infinity (60 R272). An
operand that is a NaN or an infinity gives a free value (93 U1; log 4); 0/0 and the root of a negative number give a NaN
whose pattern is free (60 R272; log 5). -/

namespace Sys2Proof

/-! ### Parts of a pattern -/

/-- Exponent and fraction: bits 30:0. -/
def NUM.mag (x : NUM) : Nat := x.bits.toNat % 2 ^ 31

/-- The sign bit, bit 31. -/
def NUM.isNeg (x : NUM) : Bool := decide (2 ^ 31 ≤ x.bits.toNat)

/-- The pattern with this sign and this magnitude. -/
def NUM.ofSignMag (neg : Bool) (p : Nat) : NUM :=
  ⟨BitVec.ofNat 32 (if neg then p + 2 ^ 31 else p)⟩

/-- +0.0 -/
def NUM.zero : NUM := ⟨0x00000000⟩

/-- Patterns in the order of their values: signed magnitude, the two zeros equal. -/
def NUM.key (x : NUM) : Int := if x.isNeg then -(x.mag : Int) else (x.mag : Int)

/-- `-a` negates exactly (R9). -/
def NUM.neg (a : NUM) : NUM := .ofSignMag (!a.isNeg) a.mag

/-- `abs(a)` clears the sign (R9). -/
def NUM.abs (a : NUM) : NUM := .ofSignMag false a.mag

/-! ### The format -/

/-- The default, IEEE 754 binary32 without a flush (R6): 8 exponent bits, 23 fraction bits. -/
def NumFormat.binary32 : NumFormat := { expCode := 6, flush := false }

/-- The width of the biased exponent. -/
def NumFormat.expBits (F : NumFormat) : Nat := F.expCode.val + 2

/-- The width of the fraction: with the sign and the exponent, the whole word. -/
def NumFormat.fracBits (F : NumFormat) : Nat := 29 - F.expCode.val

/-- `u` for which the smallest subnormal number is `2^-u`; 149 in binary32. -/
def NumFormat.unitExp (F : NumFormat) : Nat := 2 ^ (F.expBits - 1) - 2 + F.fracBits

/-- The magnitude pattern of an infinity: all exponent bits set. -/
def NumFormat.infMag (F : NumFormat) : Nat := (2 ^ F.expBits - 1) * 2 ^ F.fracBits

/-- Neither an infinity nor a NaN. -/
def NumFormat.isFinite (F : NumFormat) (x : NUM) : Bool := decide (x.mag < F.infMag)

def NumFormat.isNaN (F : NumFormat) (x : NUM) : Bool := decide (F.infMag < x.mag)

/-- Both operands are finite. -/
def NumFormat.finite2 (F : NumFormat) (a b : NUM) : Bool := F.isFinite a && F.isFinite b

/-- The units of a finite magnitude pattern: a biased exponent 0 is a subnormal, else the leading one is implied. -/
def NumFormat.unitsOfMag (F : NumFormat) (p : Nat) : Nat :=
  if p < 2 ^ F.fracBits then p
  else (2 ^ F.fracBits + p % 2 ^ F.fracBits) * 2 ^ (p / 2 ^ F.fracBits - 1)

/-- The units of a finite word's magnitude. -/
def NumFormat.units (F : NumFormat) (x : NUM) : Nat := F.unitsOfMag x.mag

/-- A finite word's value in units. -/
def NumFormat.toInt (F : NumFormat) (x : NUM) : Int :=
  if x.isNeg then -(F.units x : Int) else (F.units x : Int)

/-! ### Rounding -/

/-- `n / d` rounded to an integer, ties to even. -/
def roundDiv (n d : Nat) : Nat :=
  let k := n / d
  let r := n % d
  if d < 2 * r ∨ (2 * r = d ∧ k % 2 = 1) then k + 1 else k

/-- The magnitude pattern nearest to `n / d` units, ties to even; an infinity on overflow (R9). The leading one and the
fraction bits of the quotient are kept; a carry out of them steps the exponent by itself. -/
def NumFormat.roundMag (F : NumFormat) (n d : Nat) : Nat :=
  let shift := Nat.log2 (n / d) - F.fracBits
  min (shift * 2 ^ F.fracBits + roundDiv n (d * 2 ^ shift)) F.infMag

/-- The magnitude pattern an operation delivers: a zero for a subnormal one in a format that flushes (93 U3). -/
def NumFormat.settle (F : NumFormat) (p : Nat) : Nat :=
  if F.flush && decide (p < 2 ^ F.fracBits) then 0 else p

/-- The result of an operation whose exact magnitude is `n / d` units. -/
def NumFormat.deliver (F : NumFormat) (neg : Bool) (n d : Nat) : NUM :=
  .ofSignMag neg (F.settle (F.roundMag n d))

/-- The NUM nearest to the non-negative rational `n / d`: a decimal constant (R6, last sentence). -/
def NumFormat.ofRat (F : NumFormat) (n d : Nat) : NUM := .ofSignMag false (F.roundMag (n * 2 ^ F.unitExp) d)

/-- `toNUM(u)`: a U32 to the nearest NUM (R8). -/
def NumFormat.toNUM (F : NumFormat) (u : U32) : NUM := F.ofRat u.toNat 1

/-- `floorU32(x * t)` over exact reals, for a finite non-negative `x` (R8, 10 R34). -/
def NumFormat.floorScaled (F : NumFormat) (x : NUM) (t : Frac) : U32 :=
  BitVec.ofNat 32 (F.units x * t.num / (t.den * 2 ^ F.unitExp))

/-- 1.0 -/
def NumFormat.one (F : NumFormat) : NUM := F.ofRat 1 1

/-! ### Arithmetic -/

/-- What an invalid operation on finite operands delivers, the IEEE 754 default (60 R272): a NaN, its sign and fraction
free. -/
def NumFormat.invalid (F : NumFormat) (op : NumOp) (a b : NUM) : NUM :=
  let w := Config.openNaN F op a b
  .ofSignMag w.isNeg (F.infMag + 1 + w.mag % (2 ^ F.fracBits - 1))

/-- The NUM nearest to `z` units; an exact zero has the sign `negZero`. -/
def NumFormat.roundInt (F : NumFormat) (z : Int) (negZero : Bool) : NUM :=
  if z = 0 then .ofSignMag negZero 0 else F.deliver (decide (z < 0)) z.natAbs 1

/-- `a + b`. A zero sum of two negative zeros is -0.0, every other zero sum +0.0. -/
def NumFormat.add (F : NumFormat) (a b : NUM) : NUM :=
  if F.finite2 a b then F.roundInt (F.toInt a + F.toInt b) (a.isNeg && b.isNeg)
  else Config.openResult F .add a b

/-- `a - b`, the sum with the sign of `b` turned. -/
def NumFormat.sub (F : NumFormat) (a b : NUM) : NUM :=
  if F.finite2 a b then F.roundInt (F.toInt a - F.toInt b) (a.isNeg && !b.isNeg)
  else Config.openResult F .sub a b

/-- `a * b`. -/
def NumFormat.mul (F : NumFormat) (a b : NUM) : NUM :=
  if F.finite2 a b then F.deliver (a.isNeg != b.isNeg) (F.units a * F.units b) (2 ^ F.unitExp)
  else Config.openResult F .mul a b

/-- `a / b`. A non-zero dividend over a zero is an infinity, 0/0 is invalid (R272). -/
def NumFormat.div (F : NumFormat) (a b : NUM) : NUM :=
  if F.finite2 a b then
    if F.units b ≠ 0 then F.deliver (a.isNeg != b.isNeg) (F.units a * 2 ^ F.unitExp) (F.units b)
    else if F.units a ≠ 0 then .ofSignMag (a.isNeg != b.isNeg) F.infMag
    else F.invalid .div a b
  else Config.openResult F .div a b

/-- One bit of the integer square root per step, from the highest down. -/
def isqrtGo (n : Nat) : Nat → Nat → Nat
  | 0, r => r
  | k + 1, r => isqrtGo n k (if (r + 2 ^ k) * (r + 2 ^ k) ≤ n then r + 2 ^ k else r)

/-- `sqrt(a)`, correctly rounded (R9); no rule of the spec calls it. The integer root is taken in half units, and every
point half way between two numbers is a whole number of them, so a sticky bit stands for its fraction. The root of a negative
number is invalid; that of -0.0 is -0.0. -/
def NumFormat.sqrt (F : NumFormat) (a : NUM) : NUM :=
  if !F.isFinite a then Config.openResult F .sqrt a a
  else if a.isNeg && F.units a != 0 then F.invalid .sqrt a a
  else
    let n := F.units a * 2 ^ (F.unitExp + 2)
    let r := isqrtGo n ((2 ^ F.expBits + F.fracBits + F.unitExp) / 2 + 2) 0
    F.deliver a.isNeg (2 * r + (if r * r = n then 0 else 1)) 4

/-! ### Comparisons, maximum, minimum (R9) -/

/-- A comparison of finite operands by their values; open otherwise (93 U1). -/
def NumFormat.test (F : NumFormat) (t : NumTest) (a b : NUM) : Bool :=
  if F.finite2 a b then
    match t with
    | .gt => decide (b.key < a.key)
    | .lt => decide (a.key < b.key)
    | .ge => decide (b.key ≤ a.key)
    | .le => decide (a.key ≤ b.key)
    | .eq => decide (a.key = b.key)
  else Config.openTest F t a b

def NumFormat.gt (F : NumFormat) (a b : NUM) : Bool := F.test .gt a b
def NumFormat.lt (F : NumFormat) (a b : NUM) : Bool := F.test .lt a b
def NumFormat.ge (F : NumFormat) (a b : NUM) : Bool := F.test .ge a b
def NumFormat.le (F : NumFormat) (a b : NUM) : Bool := F.test .le a b
def NumFormat.eq (F : NumFormat) (a b : NUM) : Bool := F.test .eq a b

/-- `max(a,b)` is `a` if `a > b`, else `b`. -/
def NumFormat.max (F : NumFormat) (a b : NUM) : NUM :=
  if F.finite2 a b then (if F.gt a b then a else b) else Config.openResult F .max a b

/-- `min(a,b)` is `a` if `a < b`, else `b`. -/
def NumFormat.min (F : NumFormat) (a b : NUM) : NUM :=
  if F.finite2 a b then (if F.lt a b then a else b) else Config.openResult F .min a b

/-- `clamp(v,lo,hi)` is `min(max(v,lo),hi)`. -/
def NumFormat.clamp (F : NumFormat) (v lo hi : NUM) : NUM := F.min (F.max v lo) hi

/-- The IEEE comparison `a <= b` on every pattern: false with a NaN, infinities in their places. PREPARE's range test
reads it so (46 R251: "false for a NaN too"). -/
def NumFormat.ieeeLe (F : NumFormat) (a b : NUM) : Bool := !F.isNaN a && !F.isNaN b && decide (a.key ≤ b.key)

end Sys2Proof
end

