-- ==== Sys2Proof/Machine/Constants.lean ====
section
/-! DEFINITION. The literals of the formulas in a format, and the parameters at the values of 00 R6's third column: every
decimal is the NUM nearest to it. -/

namespace Sys2Proof

/-! ### Literals of the formulas -/

def NumFormat.two (F : NumFormat) : NUM := F.ofRat 2 1
def NumFormat.ten (F : NumFormat) : NUM := F.ofRat 10 1
def NumFormat.twenty (F : NumFormat) : NUM := F.ofRat 20 1

/-- PI, the NUM nearest to the circle constant (00 R9), by its first 21 digits: more than the fraction of a word holds. -/
def NumFormat.pi (F : NumFormat) : NUM := F.ofRat 314159265358979323846 (10 ^ 20)

/-- 0.7071, the Q of an order that is not 1 to 4 (40 R123). -/
def NumFormat.qOtherOrder (F : NumFormat) : NUM := F.ofRat 7071 10000

/-- The exponent of 40 R122, 0.4996667741545416. -/
def NumFormat.kw1Exp (F : NumFormat) : NUM := F.ofRat 4996667741545416 (10 ^ 16)

/-- 0.001, seconds per millisecond (40 R124). -/
def NumFormat.milli (F : NumFormat) : NUM := F.ofRat 1 1000

/-! ### The parameters -/

/-- The parameters at the values of R6, every decimal converted to the format `F` once. A response port holds
`respExtra` words beyond the two it must hold (70 R300): a choice of the model (log 10). -/
def Params.ofFormat (F : NumFormat) : Params where
  nch := .two
  nstage := .four
  num := F
  fsMin := F.ofRat 8000 1
  fsMax := F.ofRat 192000 1
  blkCap := 36000
  q1 := F.ofRat 7071 10000
  q2 := F.ofRat 7071 10000
  q3s0 := F.ofRat 1 1
  q3s1 := F.ofRat 5 10
  q4s0 := F.ofRat 5412 10000
  q4s1 := F.ofRat 13065 10000
  qFill3 := F.ofRat 7071 10000
  qFill4 := F.ofRat 7071 10000
  chFmin := F.ofRat 10 1
  chFmaxK := F.ofRat 45 100
  thrMin := (F.ofRat 60 1).neg
  thrMax := .zero
  ratMin := F.one
  ratMax := F.ofRat 20 1
  kneMin := .zero
  kneMax := F.ofRat 24 1
  attMin := F.ofRat 1 10
  attMax := F.ofRat 100 1
  relMin := F.ofRat 10 1
  relMax := F.ofRat 1000 1
  lnkMin := .zero
  lnkMax := F.one
  arTauMs := F.ofRat 100 1
  arRelMin := F.ofRat 50 1
  arRelMax := F.ofRat 500 1
  autoRelMap := .linear
  kneeCurve := .quadratic
  kw1F0 := F.ofRat 1681974450955533 (10 ^ 12)
  kw1G := F.ofRat 3999843853973347 (10 ^ 15)
  kw1Q := F.ofRat 7071752369554196 (10 ^ 16)
  kw2F0 := F.ofRat 3813547087602444 (10 ^ 14)
  kw2Q := F.ofRat 5003270373238773 (10 ^ 16)
  tMom := { num := 2, den := 5 }
  tSt := { num := 3, den := 1 }
  tBlk := { num := 1, den := 10 }
  lufsOfs := (F.ofRat 691 1000).neg
  msFloor := F.ofRat 1 (10 ^ 10)
  absGate := (F.ofRat 70 1).neg
  relGate := F.ofRat 10 1
  lraMinBlk := 10
  drMax := F.ofRat 20 1
  dbFloor := (F.ofRat 100 1).neg
  busEndian := .little
  respExtra := 4094

/-- The parameters of R6: NUM is binary32. -/
def Params.default : Params := Params.ofFormat .binary32

end Sys2Proof
end

