-- ==== Sys2Proof/Machine/Coef.lean ====
section
/-! DEFINITION. The coefficient calculator and the conversion functions (40_coef_functions.md): pure functions of their
arguments and of the implementation (R128), evaluated left to right, each operation rounded (00 R9). `F` is the format NUM,
`k` the parameters. -/

namespace Sys2Proof

/-- `w0 = 2.0 * PI * f / fs` (R120). -/
def omega0 (F : NumFormat) (fs f : NUM) : NUM := F.div (F.mul (F.mul F.two F.pi) f) fs

/-- `alpha = sin(w0) / (2.0 * Q)` (R120). -/
def alphaOf (F : NumFormat) (w0 q : NUM) : NUM := F.div (Config.fsin F w0) (F.mul F.two q)

/-- `coefLP(fs, f, Q)`, the low-pass set (R120). -/
def coefLP (F : NumFormat) (fs f q : NUM) : Coef :=
  let w0 := omega0 F fs f
  let cw := Config.fcos F w0
  let alpha := alphaOf F w0 q
  let a0 := F.add F.one alpha
  let m := F.sub F.one cw
  { b0 := F.div (F.div m F.two) a0
    b1 := F.div m a0
    b2 := F.div (F.div m F.two) a0
    a1 := F.div (F.mul F.two.neg cw) a0
    a2 := F.div (F.sub F.one alpha) a0 }

/-- `coefHP(fs, f, Q)`, the high-pass set (R121). -/
def coefHP (F : NumFormat) (fs f q : NUM) : Coef :=
  let w0 := omega0 F fs f
  let cw := Config.fcos F w0
  let alpha := alphaOf F w0 q
  let a0 := F.add F.one alpha
  let m := F.add F.one cw
  { b0 := F.div (F.div m F.two) a0
    b1 := F.div m.neg a0
    b2 := F.div (F.div m F.two) a0
    a1 := F.div (F.mul F.two.neg cw) a0
    a2 := F.div (F.sub F.one alpha) a0 }

/-- `coefKW1(fs)`, the K-weighting stage 1 set (R122): `t` is the rule's K. -/
def coefKW1 (k : Params) (fs : NUM) : Coef :=
  let F := k.num
  let t := Config.ftan F (F.div (F.mul F.pi k.kw1F0) fs)
  let vh := Config.fpow F F.ten (F.div k.kw1G F.twenty)
  let vb := Config.fpow F vh F.kw1Exp
  let tt := F.mul t t
  let tq := F.div t k.kw1Q
  let vbtq := F.div (F.mul vb t) k.kw1Q
  let a0 := F.add (F.add F.one tq) tt
  { b0 := F.div (F.add (F.add vh vbtq) tt) a0
    b1 := F.div (F.mul F.two (F.sub tt vh)) a0
    b2 := F.div (F.add (F.sub vh vbtq) tt) a0
    a1 := F.div (F.mul F.two (F.sub tt F.one)) a0
    a2 := F.div (F.add (F.sub F.one tq) tt) a0 }

/-- The K-weighting stage 2 set, a high-pass (10 R43, 44 R200). -/
def coefKW2 (k : Params) (fs : NUM) : Coef := coefHP k.num fs k.kw2F0 k.kw2Q

/-- `butterQ(order, s)`, the document's Butterworth-Q table (R123); the cells it lacks are QFILL3 and QFILL4. -/
def butterQ (k : Params) (order s : Nat) : NUM :=
  match order, s with
  | 1, _ => k.q1
  | 2, _ => k.q2
  | 3, 0 => k.q3s0
  | 3, 1 => k.q3s1
  | 3, _ => k.qFill3
  | 4, 0 => k.q4s0
  | 4, 1 => k.q4s1
  | 4, _ => k.qFill4
  | _, _ => k.num.qOtherOrder

/-- `onePole(fs, tMs) = 1.0 - exp(-1.0 / (fs * tMs * 0.001))` (R124). -/
def onePole (F : NumFormat) (fs tMs : NUM) : NUM :=
  F.sub F.one (Config.fexp F (F.div F.one.neg (F.mul (F.mul fs tMs) F.milli)))

/-- `lin2db(x)`: `20.0 * log10(x)` for `x > 0`, else the floor DB_FLOOR (R125). -/
def lin2db (k : Params) (x : NUM) : NUM :=
  if k.num.gt x .zero then k.num.mul k.num.twenty (Config.flog10 k.num x) else k.dbFloor

/-- `db2lin(d) = pow(10.0, d / 20.0)` (R126). -/
def db2lin (F : NumFormat) (d : NUM) : NUM := Config.fpow F F.ten (F.div d F.twenty)

/-- `lufs(ms) = -0.691 + 10.0 * log10(max(ms, 1e-10))` (R127). -/
def lufs (k : Params) (ms : NUM) : NUM :=
  k.num.add k.lufsOfs (k.num.mul k.num.ten (Config.flog10 k.num (k.num.max ms k.msFloor)))

/-- LUFS0 = `lufs(0.0)` (10 R53). -/
def lufs0 (k : Params) : NUM := lufs k .zero

end Sys2Proof
end

