-- ==== Sys2Proof/Machine/State.lean ====
section
/-! DEFINITION. The state of the block (10_state.md) as plain data, its power-on value (10 R53, 70 R290 a), and the reasons
a step could stop, of which the spec has none. -/

namespace Sys2Proof.Machine

/-- The flags of STATUS (10 R32); bits 31:3 do not exist. -/
structure Status where
  /-- Bit 0: a PREPARE has been accepted. -/
  prep : Bool
  /-- Bit 1: an accepted block found the history full. -/
  blkfull : Bool
  /-- Bit 2: a command was discarded, or an unmapped address read. -/
  ill : Bool
  deriving DecidableEq, Repr

/-- A biquad section: coefficient set and delay line (10 R35, R36, R38, R39). -/
structure Biquad where
  coef : Coef
  st : Delay
  deriving DecidableEq, Repr

/-- A cascaded chain (10 R37 to R39). -/
structure Chain where
  ty : FilterType
  order : U32
  freq : NUM
  en : Bool
  stage : Four Biquad
  deriving DecidableEq, Repr

/-- The dynamics detector (10 R40 to R42). -/
structure Dyn where
  thresh : NUM
  ratio : NUM
  knee : NUM
  attack : NUM
  release : NUM
  link : NUM
  auto : Bool
  attc : NUM
  relc : NUM
  arc : NUM
  env : Duo NUM
  ar : Duo NUM
  grmax : NUM
  deriving DecidableEq, Repr

/-- The delay lines of one K-weighting filter (10 R44). -/
structure KwDelay where
  s1 : Delay
  s2 : Delay
  deriving DecidableEq, Repr

/-- A sliding window: its queue, oldest entry first, its count and its running sum (10 R45). -/
structure Window where
  q : List NUM
  cnt : U32
  sum : NUM
  deriving DecidableEq, Repr

/-- The loudness meter (10 R43 to R47). -/
structure Meter where
  kwc1 : Coef
  kwc2 : Coef
  kw : Duo KwDelay
  winM : Window
  winS : Window
  gsum : NUM
  gcnt : U32
  /-- Mean-squares of the accepted blocks, in order of acceptance. -/
  blkMS : List NUM
  /-- Their loudness values. -/
  blkLU : List NUM
  n : U32
  deriving DecidableEq, Repr

/-- The readout registers (10 R48). -/
structure Readouts where
  mom : NUM
  st : NUM
  integ : NUM
  lra : NUM
  dr : NUM
  gr : NUM
  deriving DecidableEq, Repr

/-- A command and response port pair (30 R90, R101): words presented and not yet consumed, and responses not yet read, each
oldest first. -/
structure Port where
  cmd : List Word
  resp : List Word
  deriving DecidableEq, Repr

/-- The three port pairs (20 R74). -/
structure Ports where
  processing : Port
  control : Port
  reader : Port
  deriving DecidableEq, Repr

/-- The whole state. ID (10 R33) is a constant of the read operation, not a field. The last three fields are the
model's own: see INVENTORY.md. -/
structure State where
  status : Status
  fs : NUM
  blksz : U32
  n100 : U32
  n400 : U32
  n3s : U32
  bq : Duo Biquad
  ch : Duo Chain
  dyn : Dyn
  lm : Meter
  ro : Readouts
  ports : Ports
  /-- The port the executing command arrived on. -/
  cur : Agent
  /-- How many packets have been executed: where the arbiter's free choice is read. -/
  turn : Nat
  /-- The implementation parameters; no step writes them. -/
  cfg : Params
  deriving DecidableEq, Repr

/-- What stops the machine: nothing. "every command either executes its rule or is discarded, and nothing else can
happen" (60, introduction; R271). No constructor: nobody raises one, which is safe as the spec names no stop. -/
inductive Fault where
  deriving DecidableEq, Repr

/-- Why a command could be refused a meaning. -/
inductive Refusal where
  /-- The host's name for an instruction whose meaning is not written; raised only by an arm of `exec` that rejects
  by name, of which there is none. Safe: the run ends. -/
  | notModelled (mnemonic : String)
  deriving DecidableEq, Repr

/-- IDC, the identity coefficient set (10 R53). -/
def identityCoef (F : NumFormat) : Coef :=
  { b0 := F.one, b1 := .zero, b2 := .zero, a1 := .zero, a2 := .zero }

/-- A cleared delay line: four +0.0 (41 R143). -/
def clearedDelay : Delay := { x1 := .zero, x2 := .zero, y1 := .zero, y2 := .zero }

/-- An empty window. -/
def emptyWindow : Window := { q := [], cnt := 0, sum := .zero }

/-- A port with nothing presented and nothing waiting. -/
def emptyPort : Port := { cmd := [], resp := [] }

/-- The state after the power-on reset input, for an implementation with parameters `k`: the power-on column of 10 R53, and
empty ports (70 R290 a). `cur` and `turn` are the model's own (log 11). -/
def State.powerOn (k : Params) : State where
  status := { prep := false, blkfull := false, ill := false }
  fs := .zero
  blksz := 0
  n100 := 0
  n400 := 0
  n3s := 0
  bq := .both { coef := identityCoef k.num, st := clearedDelay }
  ch := .both
    { ty := .lowPass, order := 1, freq := k.num.ofRat 1000 1, en := false,
      stage := .all { coef := identityCoef k.num, st := clearedDelay } }
  dyn :=
    { thresh := .zero, ratio := k.num.one, knee := .zero, attack := k.num.ofRat 10 1, release := k.num.ofRat 100 1,
      link := k.num.one, auto := false, attc := .zero, relc := .zero, arc := .zero,
      env := .both .zero, ar := .both .zero, grmax := .zero }
  lm :=
    { kwc1 := identityCoef k.num, kwc2 := identityCoef k.num,
      kw := .both { s1 := clearedDelay, s2 := clearedDelay },
      winM := emptyWindow, winS := emptyWindow, gsum := .zero, gcnt := 0, blkMS := [], blkLU := [], n := 0 }
  ro := { mom := lufs0 k, st := lufs0 k, integ := lufs0 k, lra := .zero, dr := .zero, gr := .zero }
  ports := { processing := emptyPort, control := emptyPort, reader := emptyPort }
  cur := .processing
  turn := 0
  cfg := k

/-- The machine right after reset, at the default parameters. -/
def State.reset : State := State.powerOn Params.default

end Sys2Proof.Machine
end

