-- ==== Sys2Proof/Machine/Flags.lean ====
section
/-! DEFINITION. The flags: STATUS as a word and the three updates the rules make (10 R32). No arithmetic command writes a
flag as a side effect. -/

namespace Sys2Proof.Machine

/-- One bit at a position. -/
def flagBit (b : Bool) (i : Nat) : Nat := if b then 2 ^ i else 0

/-- STATUS as RDR reads it: PREP, BLKFULL, ILL in bits 0, 1, 2, zeros above (10 R32). -/
def Status.word (f : Status) : Word :=
  BitVec.ofNat 32 (flagBit f.prep 0 + flagBit f.blkfull 1 + flagBit f.ill 2)

/-- `STATUS.ILL <- 1`. -/
def State.setIll (s : State) : State := { s with status := { s.status with ill := true } }

/-- `STATUS.BLKFULL <- b`. -/
def State.setBlkfull (b : Bool) (s : State) : State := { s with status := { s.status with blkfull := b } }

/-- `STATUS.PREP <- 1`. -/
def State.setPrep (s : State) : State := { s with status := { s.status with prep := true } }

end Sys2Proof.Machine
end

