-- ==== Sys2Proof/Machine/Operands.lean ====
section
/-! DEFINITION. The operand forms of the commands (30 R93): the order request, the unit mask, flags and types as words,
and the byte order of a bus that carries the ports (20 R72). A channel operand is `Chan`, a NUM operand its word. -/

namespace Sys2Proof.Machine

/-- The order request clamped to [1, NSTAGE], by default [1, 4] (42 R150). -/
def clampOrder (nstage : StageCount) (orderReq : Nat) : Nat :=
  if orderReq < 1 then 1 else if orderReq > nstage.toNat then nstage.toNat else orderReq

/-- Bit `i` of the unit mask of RESET: 0 BQ, 1 CH, 2 DYN, 3 LM (30 R93 d). -/
def unitSelected (units i : Nat) : Bool := units / 2 ^ i % 2 == 1

/-- A BOOL register as a word: the flag in bit 0, zeros above (10 R49). -/
def boolWord (b : Bool) : Word := if b then 1 else 0

/-- TYPE as a word (10 R37). -/
def typeWord : FilterType → Word
  | .lowPass => 0
  | .highPass => 1

/-- The four bytes of a word on a byte-addressed bus, lowest address first: little-endian puts bits 7:0 there (20 R72). -/
def busBytes (e : Endian) (w : Word) : List Byte :=
  let le := (List.range 4).map fun k => BitVec.ofNat 8 (w.toNat / 2 ^ (8 * k))
  match e with
  | .little => le
  | .big => le.reverse

/-- The word that four bytes on such a bus carry. -/
def busWord (e : Endian) (bs : List Byte) : Word :=
  let le := match e with
    | .little => bs
    | .big => bs.reverse
  BitVec.ofNat 32 (le.foldr (fun b acc => b.toNat + 256 * acc) 0)

end Sys2Proof.Machine
end

