-- ==== Sys2Proof/Machine/Ops.lean ====
section
/-! DEFINITION. The operations the commands share: the ports, responding, discarding (the block's one exception), the
legality test, the register address space, and which port is served. -/

namespace Sys2Proof.Machine

/-- The outcome of a command or a step. -/
abbrev Result := Host.Outcome State Fault Refusal

/-! ### Ports (20 R74, 30 R90, R101) -/

/-- The port pair of an agent. -/
def Ports.get (p : Ports) : Agent → Port
  | .processing => p.processing
  | .control => p.control
  | .reader => p.reader

/-- The port pair of an agent replaced, the others untouched. -/
def Ports.set (p : Ports) (a : Agent) (v : Port) : Ports :=
  match a with
  | .processing => { p with processing := v }
  | .control => { p with control := v }
  | .reader => { p with reader := v }

/-- `respond(v)` for each word of `ws` in order: appended to the response port of the pair the executing command
arrived on (00 R13, 30 R90). -/
def State.respond (s : State) (ws : List Word) : State :=
  let p := s.ports.get s.cur
  { s with ports := s.ports.set s.cur { p with resp := p.resp ++ ws } }

/-- An agent presents words on its command port. From outside the machine, between steps. -/
def State.present (s : State) (a : Agent) (ws : List Word) : State :=
  let p := s.ports.get a
  { s with ports := s.ports.set a { p with cmd := p.cmd ++ ws } }

/-- An agent reads the oldest `k` words of its response port. From outside the machine, between steps. -/
def State.drain (s : State) (a : Agent) (k : Nat) : State :=
  let p := s.ports.get a
  { s with ports := s.ports.set a { p with resp := p.resp.drop k } }

/-! ### The exception: discard with ILL (60 R270) -/

/-- `discard(ILL)`: set the sticky flag and answer `k` zero words, `k` the OPC's response count; nothing else changes.
There is no handler, no saved state and no return (60 R275, R276). -/
def discard (k : Nat) (s : State) : State := s.setIll.respond (List.replicate k 0)

/-- The test of 30 R95 step 3 for a command other than NOP, PREPARE and RDR: before an accepted PREPARE it is discarded,
answering its `k` response words with zeros (cause X2); after it, it has its effect `t`. -/
def whenPrepared (k : Nat) (s t : State) : Result :=
  .next (if s.status.prep then t else discard k s)

/-! ### The channels of the implementation (00 R6) -/

/-- The commands that name channel 1: by their channel field, or by carrying a sample for each channel. -/
def namesSecondChannel : Instr → Bool
  | .bqSetc c _ _ _ _ _ | .bqStep c _ | .bqRst c | .chSetp c _ _ _ | .chEn c _ | .chStep c _ | .chRst c
  | .envStep c _ | .kwStep c _ => c == .ch1
  | .dynStep _ _ | .lmStep _ _ => true
  | _ => false

/-- The commands an implementation has: with NCH = 2 all of them, with NCH = 1 those that do not name channel 1, among them
the mono forms (60 R272, last row of its table). A choice of the model (log 3). -/
def hasCommand (k : Params) (i : Instr) : Bool := k.nch == .two || !namesSecondChannel i

/-- What is read where a register of channel 1 would be: nothing while NCH = 1 (log 3). -/
def ofSecondChannel (k : Params) (r : Option Word) : Option Word := if k.nch = .two then r else none

/-! ### The register address space (10 R49, 20 R70) -/

/-- ID, the read-only identification word (10 R33). -/
def idWord : Word := 0x4D420001

/-- Offsets 0..4 of a coefficient set: b0, b1, b2, a1, a2. -/
def coefReg (c : Coef) : Nat → Option Word
  | 0 => some c.b0.bits
  | 1 => some c.b1.bits
  | 2 => some c.b2.bits
  | 3 => some c.a1.bits
  | 4 => some c.a2.bits
  | _ => none

/-- Offsets 0..3 of a delay line: x1, x2, y1, y2. -/
def delayReg (d : Delay) : Nat → Option Word
  | 0 => some d.x1.bits
  | 1 => some d.x2.bits
  | 2 => some d.y1.bits
  | 3 => some d.y2.bits
  | _ => none

/-- Offsets 0..8 of a biquad: its set, then its delay line. -/
def biquadReg (b : Biquad) (k : Nat) : Option Word :=
  if k < 5 then coefReg b.coef k else delayReg b.st (k - 5)

/-- The 0x80 addresses of a chain: parameters at 0..3, stage s, which is below NSTAGE, at 0x10 * (s + 1). -/
def chainReg (n : StageCount) (h : Chain) (k : Nat) : Option Word :=
  if n.toNat < k / 16 then none
  else match k / 16, k % 16 with
  | 0, 0 => some (typeWord h.ty)
  | 0, 1 => some h.order
  | 0, 2 => some h.freq.bits
  | 0, 3 => some (boolWord h.en)
  | 1, j => biquadReg h.stage.s0 j
  | 2, j => biquadReg h.stage.s1 j
  | 3, j => biquadReg h.stage.s2 j
  | 4, j => biquadReg h.stage.s3 j
  | _, _ => none

/-- 0x0000..0x0006: identity, status, configuration. -/
def sysReg (s : State) : Nat → Option Word
  | 0 => some idWord
  | 1 => some s.status.word
  | 2 => some s.fs.bits
  | 3 => some s.blksz
  | 4 => some s.n100
  | 5 => some s.n400
  | 6 => some s.n3s
  | _ => none

/-- 0x0200..0x020E. -/
def dynReg (p : Params) (d : Dyn) : Nat → Option Word
  | 0x0 => some d.thresh.bits
  | 0x1 => some d.ratio.bits
  | 0x2 => some d.knee.bits
  | 0x3 => some d.attack.bits
  | 0x4 => some d.release.bits
  | 0x5 => some d.link.bits
  | 0x6 => some (boolWord d.auto)
  | 0x7 => some d.attc.bits
  | 0x8 => some d.relc.bits
  | 0x9 => some d.arc.bits
  | 0xA => some d.env.ch0.bits
  | 0xB => ofSecondChannel p (some d.env.ch1.bits)
  | 0xC => some d.ar.ch0.bits
  | 0xD => ofSecondChannel p (some d.ar.ch1.bits)
  | 0xE => some d.grmax.bits
  | _ => none

/-- Offsets 0..7 of the delay lines of a K-weighting filter: s1, then s2. -/
def kwReg (d : KwDelay) (k : Nat) : Option Word :=
  if k < 4 then delayReg d.s1 k else delayReg d.s2 (k - 4)

/-- 0x0300..0x03FF. -/
def meterReg (p : Params) (m : Meter) (k : Nat) : Option Word :=
  if k < 0x05 then coefReg m.kwc1 k
  else if k < 0x10 then coefReg m.kwc2 (k - 0x05)
  else if k < 0x20 then kwReg m.kw.ch0 (k - 0x10)
  else if k < 0x30 then ofSecondChannel p (kwReg m.kw.ch1 (k - 0x20))
  else match k with
    | 0x40 => some m.winM.cnt
    | 0x41 => some m.winM.sum.bits
    | 0x42 => some m.winS.cnt
    | 0x43 => some m.winS.sum.bits
    | 0x50 => some m.gsum.bits
    | 0x51 => some m.gcnt
    | 0x60 => some m.n
    | _ => none

/-- 0x0400..0x0405. -/
def readoutReg (r : Readouts) : Nat → Option Word
  | 0 => some r.mom.bits
  | 1 => some r.st.bits
  | 2 => some r.integ.bits
  | 3 => some r.lra.bits
  | 4 => some r.dr.bits
  | 5 => some r.gr.bits
  | _ => none

/-- `reg[addr]`, the complete map of 10 R49: the word of a listed address, none for any other. -/
def State.regRead (s : State) (a : Nat) : Option Word :=
  if a < 0x010 then sysReg s a
  else if a < 0x020 then biquadReg s.bq.ch0 (a - 0x010)
  else if a < 0x030 then ofSecondChannel s.cfg (biquadReg s.bq.ch1 (a - 0x020))
  else if a < 0x100 then none
  else if a < 0x180 then chainReg s.cfg.nstage s.ch.ch0 (a - 0x100)
  else if a < 0x200 then ofSecondChannel s.cfg (chainReg s.cfg.nstage s.ch.ch1 (a - 0x180))
  else if a < 0x300 then dynReg s.cfg s.dyn (a - 0x200)
  else if a < 0x400 then meterReg s.cfg s.lm (a - 0x300)
  else readoutReg s.ro (a - 0x400)

/-! ### Which port is served (20 R78, 30 R90, R101) -/

/-- How many words a response port holds: at least two (70 R300). -/
def State.respDepth (s : State) : Nat := 2 + s.cfg.respExtra

/-- A port can be served: its next packet is complete (30 R90) and its response port has room for the words the packet
answers, whether it executes or is discarded (30 R101). -/
def Port.ready (depth : Nat) (p : Port) : Bool :=
  match splitPacket p.cmd with
  | none => false
  | some (h, _, _) => decide (p.resp.length + respWords (opcOf h) ≤ depth)

/-- The agents whose ports can be served. -/
def State.readyAgents (s : State) : List Agent :=
  [Agent.processing, Agent.control, Agent.reader].filter fun a => (s.ports.get a).ready s.respDepth

/-- The agent the arbiter serves: any of those that can be (20 R78 c), none while there is none. Its choice among several
is a free value, read at the number of packets executed so far (logs 8 and 11). -/
def State.served (s : State) : Option Agent :=
  match s.readyAgents with
  | [] => none
  | [a] => some a
  | a :: b :: more =>
    some ((a :: b :: more).getD (Config.arbiterChoice s.turn % (a :: b :: more).length) a)

/-- The state in which a packet of agent `a` executes: its words are consumed, `rest` is what remains on the port, and
its responses will go to the same pair. -/
def State.accept (s : State) (a : Agent) (rest : List Word) : State :=
  let p := s.ports.get a
  { s with ports := s.ports.set a { p with cmd := rest }, cur := a, turn := s.turn + 1 }

/-- What runs next: the header and operand words of the served port's packet, and the state it executes in. None while
no port can be served: the block waits (70 R290). -/
def State.fetch (s : State) : Option (Word × List Word × State) :=
  match s.served with
  | none => none
  | some a =>
    match splitPacket (s.ports.get a).cmd with
    | none => none
    | some (h, ops, rest) => some (h, ops, s.accept a rest)

/-- A packet whose header matches no row of 30 R94, or names a command the implementation lacks, is discarded, answering the response words of its OPC (cause X1,
30 R95 step 2, 60 R270 (4)). -/
def rejectHeader (h : Word) (s : State) : Result := .next (discard (respWords (opcOf h)) s)

/-- Only agent `a` presents anything, exactly the words `ws`, and its response port is empty. -/
def State.onlyPresent (s : State) (a : Agent) (ws : List Word) : State :=
  let silent (p : Port) : Port := { p with cmd := [] }
  let quiet : Ports :=
    { processing := silent s.ports.processing
      control := silent s.ports.control
      reader := silent s.ports.reader }
  { s with ports := quiet.set a { cmd := ws, resp := [] } }

/-- The words of the first packet of a stream, all of it where the packet is not complete. -/
def firstPacket (ws : List Word) : List Word :=
  match splitPacket ws with
  | none => ws
  | some (h, ops, _) => h :: ops

end Sys2Proof.Machine
end

