-- ==== Sys2Proof/Machine/Biquad.lean ====
section
/-! DEFINITION. The BQ family (41_biquad.md): BQ.SETC, BQ.STEP, BQ.RST, over `biquadStep`, the function every filter of
the block uses. -/

namespace Sys2Proof.Machine

/-- The output sample of the recurrence, left to right, each product rounded (R141). -/
def biquadOut (F : NumFormat) (c : Coef) (d : Delay) (x : NUM) : NUM :=
  F.sub (F.sub (F.add (F.add (F.mul c.b0 x) (F.mul c.b1 d.x1)) (F.mul c.b2 d.x2)) (F.mul c.a1 d.y1))
    (F.mul c.a2 d.y2)

/-- The delay line after one sample: the input becomes x1, the output y1, the old ones move on (R141). -/
def pushDelay (d : Delay) (x y : NUM) : Delay := { x1 := x, x2 := d.x1, y1 := y, y2 := d.y1 }

/-- `biquadStep(coef, st, in)`: the output sample and the new delay line, direct form I (R141, 90 C1). -/
def biquadStep (F : NumFormat) (c : Coef) (d : Delay) (x : NUM) : NUM × Delay :=
  (biquadOut F c d x, pushDelay d x (biquadOut F c d x))

/-- One sample through a section that keeps its coefficient set. -/
def biquadRun (F : NumFormat) (b : Biquad) (x : NUM) : NUM × Biquad :=
  ((biquadStep F b.coef b.st x).1, { b with st := (biquadStep F b.coef b.st x).2 })

/-- The delay line cleared, the set kept (R143). -/
def clearBiquad (b : Biquad) : Biquad := { b with st := clearedDelay }

/-- BQ.SETC (R140): all five coefficients in one step, stored as given whatever their patterns; the delay line stays. -/
def execBqSetc (c : Chan) (b0 b1 b2 a1 a2 : NUM) (s : State) : Result :=
  let set : Coef := { b0 := b0, b1 := b1, b2 := b2, a1 := a1, a2 := a2 }
  whenPrepared 0 s { s with bq := s.bq.set c { coef := set, st := (s.bq.get c).st } }

/-- BQ.STEP (R142). -/
def execBqStep (c : Chan) (x : NUM) (s : State) : Result :=
  let r := biquadRun s.cfg.num (s.bq.get c) x
  whenPrepared 1 s (State.respond { s with bq := s.bq.set c r.2 } [r.1.bits])

/-- BQ.RST (R143). -/
def execBqRst (c : Chan) (s : State) : Result :=
  whenPrepared 0 s { s with bq := s.bq.set c (clearBiquad (s.bq.get c)) }

end Sys2Proof.Machine
end

