-- ==== Sys2Proof/Machine/Chain.lean ====
section
/-! DEFINITION. The CH family (42_chain.md): CH.SETP, CH.EN, CH.STEP, CH.RST. -/

namespace Sys2Proof.Machine

/-- `chainCoef(type, f, order, s, fs)`, the coefficient set of stage `i` (R151). -/
def chainCoef (k : Params) (ty : FilterType) (f : NUM) (order i : Nat) (fs : NUM) : Coef :=
  match ty with
  | .lowPass => coefLP k.num fs f (butterQ k order i)
  | .highPass => coefHP k.num fs f (butterQ k order i)

/-- The corner frequency clamped to [CH_FMIN, CH_FMAXK * FS], by default [10 Hz, 0.45 FS] (R150). -/
def clampFreq (k : Params) (fs f : NUM) : NUM := k.num.clamp f k.chFmin (k.num.mul k.chFmaxK fs)

/-- All four stage sets recomputed from the chain's parameters and FS; the delay lines stay (R150, 10 R38). -/
def recomputeChain (k : Params) (fs : NUM) (h : Chain) : Chain :=
  let co (i : Nat) : Coef := chainCoef k h.ty h.freq h.order.toNat i fs
  { h with stage :=
      { s0 := { coef := co 0, st := h.stage.s0.st }
        s1 := { coef := co 1, st := h.stage.s1.st }
        s2 := { coef := co 2, st := h.stage.s2.st }
        s3 := { coef := co 3, st := h.stage.s3.st } } }

/-- Stage `i` of a chain of order `n`: run if `i < n`, else passed by, its delay line untouched (R153). -/
def stageRun (F : NumFormat) (n i : Nat) (b : Biquad) (v : NUM) : NUM × Biquad :=
  if i < n then biquadRun F b v else (v, b)

/-- Stages 0 to n - 1 in series, in increasing order (R153). -/
def runStages (F : NumFormat) (n : Nat) (q : Four Biquad) (v : NUM) : NUM × Four Biquad :=
  let r0 := stageRun F n 0 q.s0 v
  let r1 := stageRun F n 1 q.s1 r0.1
  let r2 := stageRun F n 2 q.s2 r1.1
  let r3 := stageRun F n 3 q.s3 r2.1
  (r3.1, { s0 := r0.2, s1 := r1.2, s2 := r2.2, s3 := r3.2 })

/-- One sample through a chain: the operand itself while it is disabled, else through its stages (R153). -/
def chainRun (F : NumFormat) (h : Chain) (x : NUM) : NUM × Chain :=
  if h.en then
    ((runStages F h.order.toNat h.stage x).1, { h with stage := (runStages F h.order.toNat h.stage x).2 })
  else (x, h)

/-- All four delay lines cleared (R154). -/
def clearChain (h : Chain) : Chain := { h with stage := h.stage.map clearBiquad }

/-- The parameters of CH.SETP, clamped, and the sets they give (R150). -/
def setChain (k : Params) (fs : NUM) (ty : FilterType) (orderReq : Nat) (freq : NUM) (h : Chain) : Chain :=
  recomputeChain k fs { h with ty := ty, order := BitVec.ofNat 32 (clampOrder k.nstage orderReq), freq := clampFreq k fs freq }

/-- CH.SETP (R150). -/
def execChSetp (c : Chan) (ty : FilterType) (orderReq : Nat) (freq : NUM) (s : State) : Result :=
  whenPrepared 0 s { s with ch := s.ch.set c (setChain s.cfg s.fs ty orderReq freq (s.ch.get c)) }

/-- CH.EN (R152). -/
def execChEn (c : Chan) (en : Bool) (s : State) : Result :=
  whenPrepared 0 s { s with ch := s.ch.set c { s.ch.get c with en := en } }

/-- CH.STEP (R153). -/
def execChStep (c : Chan) (x : NUM) (s : State) : Result :=
  let r := chainRun s.cfg.num (s.ch.get c) x
  whenPrepared 1 s (State.respond { s with ch := s.ch.set c r.2 } [r.1.bits])

/-- CH.RST (R154). -/
def execChRst (c : Chan) (s : State) : Result :=
  whenPrepared 0 s { s with ch := s.ch.set c (clearChain (s.ch.get c)) }

end Sys2Proof.Machine
end

