-- ==== Sys2Proof/Machine/Dynamics.lean ====
section
/-! DEFINITION. The DYN family (43_dynamics.md): the parameter commands, the envelope follower, the gain computer, the
detector step and its block marker. -/

namespace Sys2Proof.Machine

/-! ### The envelope follower -/

/-- The value of a table of levels that never grows with the level: the least value among the entries at or below the level,
`top` where there is none. -/
def fallingSteps (steps : List (NUM × NUM)) (top : Nat) (x : NUM) : Nat :=
  steps.foldr (fun e v => if e.1.key ≤ x.key then min e.2.mag v else v) top

/-- The value of a table of levels that never falls with the level: the greatest value among the entries at or below the
level, 0 where there is none. -/
def risingSteps (steps : List (NUM × NUM)) (x : NUM) : Nat :=
  steps.foldr (fun e v => if e.1.key ≤ x.key then max e.2.mag v else v) 0

/-- The magnitude nearest to `v` that is at most the slack away from the formula's. -/
def nearFormula (f : Fit) (formula v : Nat) : Nat := min (max v (formula - f.slack)) (formula + f.slack)

/-- The line of an AUTOREL_MAP, at a place in its input range from 0 at the lower end to 1 at the upper (R177). -/
def autoRelLine (k : Params) (place : NUM) : NUM :=
  k.num.sub k.arRelMax (k.num.mul (k.num.sub k.arRelMax k.arRelMin) place)

/-- An AUTOREL_MAP other than the default (R177; log 7): decreasing, in [AR_REL_MIN, AR_REL_MAX], and at most the slack
away from the line over its input range. -/
def autoRelOther (k : Params) (lo hi : NUM) (fit : Fit) (a : NUM) : NUM :=
  let F := k.num
  let line := autoRelLine k (F.div (F.sub (F.clamp a lo hi) lo) (F.sub hi lo))
  let word := nearFormula fit line.mag (fallingSteps fit.steps k.arRelMax.mag a)
  .ofSignMag false (max k.arRelMin.mag (min k.arRelMax.mag word))

/-- `autoRelMs(a)`, the configuration function AUTOREL_MAP (R177): linear and decreasing over its input range, from
AR_REL_MAX to AR_REL_MIN; by default 500 ms at level 0 and 50 ms at full scale. -/
def autoRelMs (k : Params) (a : NUM) : NUM :=
  match k.autoRelMap with
  | .linear => autoRelLine k (k.num.clamp a .zero k.num.one)
  | .other lo hi fit => autoRelOther k lo hi fit a

/-- The slow copy moves only while AUTO = 1, before the envelope, towards the same level (R178). -/
def trackLevel (F : NumFormat) (d : Dyn) (c : Chan) (level : NUM) : Dyn :=
  if d.auto then
    { d with ar := d.ar.set c (F.add (d.ar.get c) (F.mul d.arc (F.sub level (d.ar.get c)))) }
  else d

/-- The release coefficient in force: program-dependent while AUTO = 1, else RELC (R178). -/
def releaseCoef (k : Params) (fs : NUM) (d : Dyn) (c : Chan) : NUM :=
  if d.auto then onePole k.num fs (autoRelMs k (d.ar.get c)) else d.relc

/-- The one-pole recurrence: ATTC when the level is strictly above the envelope, else the release coefficient (R178). -/
def envNext (F : NumFormat) (attc rc env level : NUM) : NUM :=
  F.add env (F.mul (if F.gt level env then attc else rc) (F.sub level env))

/-- `envStep(c, level)`: envelope follower `c` advanced by one sample (R178); its new value is `env.get c` after it. -/
def envAdvance (k : Params) (fs : NUM) (d : Dyn) (c : Chan) (level : NUM) : Dyn :=
  let d1 := trackLevel k.num d c level
  { d1 with env := d1.env.set c (envNext k.num d1.attc (releaseCoef k fs d1 c) (d1.env.get c) level) }

/-! ### The gain computer -/

/-- `1.0 - 1.0 / R` (R180). -/
def slope (F : NumFormat) (r : NUM) : NUM := F.sub F.one (F.div F.one r)

/-- `x - T + W / 2.0`: how far a level is past the knee start (R181). -/
def pastKneeStart (F : NumFormat) (x t w : NUM) : NUM := F.add (F.sub x t) (F.div w F.two)

/-- The default KNEE_CURVE inside the window (R181). -/
def kneeQuadratic (F : NumFormat) (x t w r : NUM) : NUM :=
  let u := pastKneeStart F x t w
  F.div (F.mul (slope F r) (F.mul u u)) (F.mul F.two w)

/-- The coefficients of a quadratic blend, `mid` and then `fin`, put in order: `0 <= mid <= fin <= 1` (R181 P3). -/
def kneeCoefs (F : NumFormat) (mid fin : Nat) : NUM × NUM :=
  let fin := min fin F.one.mag
  (.ofSignMag false (min mid fin), .ofSignMag false fin)

/-- The weight of ratio R at the place `p` in the window, 0 at the knee start and 1 at its end: the quadratic
`2 * mid * p * (1 - p) + fin * p * p`, which grows from 0 to `fin`. For `0 <= mid <= fin` these are all quadratics that
start at 0 and do not fall (R181 P3). It is evaluated from the start where it is convex and from the end where it is
concave, so that every rounded operation grows with `p` too. -/
def kneeWeight (F : NumFormat) (mid fin p : NUM) : NUM :=
  let twice := F.mul F.two mid
  let q := F.sub F.one p
  let raw :=
    if F.le twice fin then F.mul p (F.add twice (F.mul (F.sub fin twice) p))
    else F.sub fin (F.mul q (F.add (F.mul F.two (F.sub fin mid)) (F.mul (F.sub twice fin) q)))
  F.clamp raw .zero fin

/-- `1 - 1 / ratio` of the effective ratio at a weight of ratio R: the ratio, or the slope, is blended from that of ratio 1
to that of ratio R (R181 P3). -/
def kneeSlope (F : NumFormat) (blend : KneeBlend) (r weight : NUM) : NUM :=
  match blend with
  | .ratio => slope F (F.add F.one (F.mul (F.sub r F.one) weight))
  | .slope => F.mul (slope F r) weight

/-- The distance in dB that the blended ratio is applied to. -/
def kneeSpan (F : NumFormat) (span : KneeSpan) (x t w : NUM) : NUM :=
  match span with
  | .pastStart => F.div (pastKneeStart F x t w) F.two
  | .overThreshold => F.sub x t

/-- The hard-knee line at the knee end, where it takes over (R181 P4). -/
def kneeEndLine (F : NumFormat) (t w r : NUM) : NUM :=
  F.mul (F.sub (F.add t (F.div w F.two)) t) (slope F r)

/-- A quadratic blend of the effective ratio inside the window, with given coefficients (R181 P3): it grows with the level
and stays between no reduction and the hard-knee line at the knee end, so that it does not fall there. -/
def kneeBlended (F : NumFormat) (span : KneeSpan) (blend : KneeBlend) (mid fin x t w r : NUM) : NUM :=
  let place := F.clamp (F.div (pastKneeStart F x t w) w) .zero F.one
  F.clamp (F.mul (kneeSpan F span x t w) (kneeSlope F blend r (kneeWeight F mid fin place))) .zero
    (kneeEndLine F t w r)

/-- The row of a KNEE_CURVE for a threshold, a width and a ratio. -/
def rowIsFor (t w r : NUM) (row : KneeRow) : Bool := row.t == t && row.w == w && row.r == r

/-- A blended reduction with the words of `fit`: it does not fall as the level rises, is not negative, not above the
hard-knee line at the knee end, and at most the slack away from the formula's. -/
def kneeFitted (fit : Fit) (blended endLine x : NUM) : NUM :=
  .ofSignMag false (min (nearFormula fit blended.mag (risingSteps fit.steps x)) endLine.mag)

/-- Any other KNEE_CURVE inside the window (R181; log 6): a quadratic blend, with the coefficients and the words of its row
for T, W and R, or free coefficients, which depend on T, W and R alone. -/
def kneeOther (F : NumFormat) (span : KneeSpan) (blend : KneeBlend) (rows : List KneeRow) (x t w r : NUM) : NUM :=
  match rows.find? (rowIsFor t w r) with
  | some row =>
    let co := kneeCoefs F row.mid.mag row.fin.mag
    kneeFitted row.fit (kneeBlended F span blend co.1 co.2 x t w r) (kneeEndLine F t w r) x
  | none =>
    let co := kneeCoefs F (Config.kneeMid F t w r) (Config.kneeEnd F t w r)
    kneeBlended F span blend co.1 co.2 x t w r

/-- `kneeCurve(x, T, W, R)` (R181): zero up to the knee start, the hard-knee line from the knee end on, and between them
the instance's curve. -/
def kneeCurve (k : Params) (x t w r : NUM) : NUM :=
  let F := k.num
  if F.le x (F.sub t (F.div w F.two)) then .zero
  else if F.ge x (F.add t (F.div w F.two)) then F.mul (F.sub x t) (slope F r)
  else match k.kneeCurve with
    | .quadratic => kneeQuadratic F x t w r
    | .other span blend rows => kneeOther F span blend rows x t w r

/-- `reduction(x)`, the gain reduction in dB for a level in dB (R180). -/
def reduction (k : Params) (d : Dyn) (x : NUM) : NUM :=
  let F := k.num
  if F.eq d.knee .zero then F.mul (F.max .zero (F.sub x d.thresh)) (slope F d.ratio)
  else kneeCurve k x d.thresh d.knee d.ratio

/-- `gcEval(e)`: the reduction in dB and the linear gain of an envelope level (R182). -/
def gcCompute (k : Params) (d : Dyn) (e : NUM) : NUM × NUM :=
  let red := reduction k d (lin2db k e)
  (red, db2lin k.num red.neg)

/-! ### The detector -/

/-- The stereo link blend, the same for both channels (R184). -/
def linkBlend (F : NumFormat) (link l m : NUM) : NUM := F.add l (F.mul link (F.sub m l))

/-- One sample of the detector for a pair (R184): the new DYN state and the two gains. Channel 0's envelope advances
before channel 1's. -/
def detect (k : Params) (fs : NUM) (d : Dyn) (sL sR : NUM) : Dyn × NUM × NUM :=
  let F := k.num
  let m := F.max sL.abs sR.abs
  let d1 := envAdvance k fs d .ch0 (linkBlend F d.link sL.abs m)
  let d2 := envAdvance k fs d1 .ch1 (linkBlend F d.link sR.abs m)
  let gL := gcCompute k d2 (d2.env.get .ch0)
  let gR := gcCompute k d2 (d2.env.get .ch1)
  ({ d2 with grmax := F.max d.grmax (F.max gL.1 gR.1) }, gL.2, gR.2)

/-! ### The commands -/

/-- DYN.THR (R170). -/
def execDynThr (v : NUM) (s : State) : Result :=
  whenPrepared 0 s { s with dyn := { s.dyn with thresh := s.cfg.num.clamp v s.cfg.thrMin s.cfg.thrMax } }

/-- DYN.RAT (R171). -/
def execDynRat (v : NUM) (s : State) : Result :=
  whenPrepared 0 s { s with dyn := { s.dyn with ratio := s.cfg.num.clamp v s.cfg.ratMin s.cfg.ratMax } }

/-- DYN.KNE (R172). -/
def execDynKne (v : NUM) (s : State) : Result :=
  whenPrepared 0 s { s with dyn := { s.dyn with knee := s.cfg.num.clamp v s.cfg.kneMin s.cfg.kneMax } }

/-- DYN.ATT (R173): the attack time and its coefficient. -/
def execDynAtt (v : NUM) (s : State) : Result :=
  let t := s.cfg.num.clamp v s.cfg.attMin s.cfg.attMax
  whenPrepared 0 s { s with dyn := { s.dyn with attack := t, attc := onePole s.cfg.num s.fs t } }

/-- DYN.REL (R174): the release time and its coefficient. -/
def execDynRel (v : NUM) (s : State) : Result :=
  let t := s.cfg.num.clamp v s.cfg.relMin s.cfg.relMax
  whenPrepared 0 s { s with dyn := { s.dyn with release := t, relc := onePole s.cfg.num s.fs t } }

/-- DYN.LNK (R175). -/
def execDynLnk (v : NUM) (s : State) : Result :=
  whenPrepared 0 s { s with dyn := { s.dyn with link := s.cfg.num.clamp v s.cfg.lnkMin s.cfg.lnkMax } }

/-- DYN.AUTO (R176). -/
def execDynAuto (en : Bool) (s : State) : Result :=
  whenPrepared 0 s { s with dyn := { s.dyn with auto := en } }

/-- ENV.STEP (R179). -/
def execEnvStep (c : Chan) (level : NUM) (s : State) : Result :=
  let d := envAdvance s.cfg s.fs s.dyn c level
  whenPrepared 1 s (State.respond { s with dyn := d } [(d.env.get c).bits])

/-- GC.EVAL (R183): reduction, then gain; no state changes. -/
def execGcEval (e : NUM) (s : State) : Result :=
  let r := gcCompute s.cfg s.dyn e
  whenPrepared 2 s (s.respond [r.1.bits, r.2.bits])

/-- DYN.STEP (R184): the gains of channel 0 and channel 1. -/
def execDynStep (sL sR : NUM) (s : State) : Result :=
  let r := detect s.cfg s.fs s.dyn sL sR
  whenPrepared 2 s (State.respond { s with dyn := r.1 } [r.2.1.bits, r.2.2.bits])

/-- DYN.STEPM (R185): the pair (s, s), answering channel 0's gain alone. -/
def execDynStepm (x : NUM) (s : State) : Result :=
  let r := detect s.cfg s.fs s.dyn x x
  whenPrepared 1 s (State.respond { s with dyn := r.1 } [r.2.1.bits])

/-- DYN.PUB (R186): publish the peak reduction and start a new one. -/
def execDynPub (s : State) : Result :=
  whenPrepared 0 s
    { s with ro := { s.ro with gr := s.dyn.grmax }, dyn := { s.dyn with grmax := .zero } }

end Sys2Proof.Machine
end

