-- ==== Sys2Proof/Machine/KWeight.lean ====
section
/-! DEFINITION. The KW and SW families (44_kweight_window.md): K-weighting, the sliding windows and their publication. -/

namespace Sys2Proof.Machine

/-! ### K-weighting -/

/-- `kwPrepare()`: both coefficient sets from FS (R200). -/
def kwPrepare (k : Params) (fs : NUM) (m : Meter) : Meter :=
  { m with kwc1 := coefKW1 k fs, kwc2 := coefKW2 k fs }

/-- `kwStep(c, x)`: stage 1, then stage 2, of channel `c` (R201). -/
def kwRun (F : NumFormat) (m : Meter) (c : Chan) (x : NUM) : NUM × Meter :=
  let r1 := biquadStep F m.kwc1 (m.kw.get c).s1 x
  let r2 := biquadStep F m.kwc2 (m.kw.get c).s2 r1.1
  (r2.1, { m with kw := m.kw.set c { s1 := r1.2, s2 := r2.2 } })

/-! ### Windows -/

/-- The eviction loop: while the count is above the capacity, the oldest entry leaves (R203). -/
def evict (F : NumFormat) (cap : U32) : List NUM → U32 → NUM → Window
  | [], cnt, sum => { q := [], cnt := cnt, sum := sum }
  | v :: q, cnt, sum =>
    if cap < cnt then evict F cap q (cnt - 1) (F.sub sum v) else { q := v :: q, cnt := cnt, sum := sum }

/-- `windowPush(W, cap, p)`: the value enters before any leaves (R203). -/
def windowPush (F : NumFormat) (w : Window) (cap : U32) (p : NUM) : Window :=
  evict F cap (w.q ++ [p]) (w.cnt + 1) (F.add w.sum p)

/-- `meanSquare(W)`: the sum over the number of entries held; 0 of an empty window (R204). -/
def meanSquare (F : NumFormat) (w : Window) : NUM := if w.cnt = 0 then .zero else F.div w.sum (F.toNUM w.cnt)

/-- One power value into both windows (R205). -/
def pushPower (F : NumFormat) (n400 n3s : U32) (m : Meter) (p : NUM) : Meter :=
  { m with winM := windowPush F m.winM n400 p, winS := windowPush F m.winS n3s p }

/-- `power(kL, kR)`, the mean of the squares (R206, 90 C5). -/
def power (F : NumFormat) (kL kR : NUM) : NUM := F.div (F.add (F.mul kL kL) (F.mul kR kR)) F.two

/-! ### The commands -/

/-- KW.STEP (R202). -/
def execKwStep (c : Chan) (x : NUM) (s : State) : Result :=
  let r := kwRun s.cfg.num s.lm c x
  whenPrepared 1 s (State.respond { s with lm := r.2 } [r.1.bits])

/-- SW.PUSH (R205). -/
def execSwPush (p : NUM) (s : State) : Result :=
  whenPrepared 0 s { s with lm := pushPower s.cfg.num s.n400 s.n3s s.lm p }

/-- LM.PUB (R207). -/
def execLmPub (s : State) : Result :=
  whenPrepared 0 s
    { s with ro :=
      { s.ro with
        mom := lufs s.cfg (meanSquare s.cfg.num s.lm.winM)
        st := lufs s.cfg (meanSquare s.cfg.num s.lm.winS) } }

end Sys2Proof.Machine
end

