-- ==== Sys2Proof/Machine/Loudness.lean ====
section
/-! DEFINITION. The GI, LA and LM families (45_gate_loudness.md): the gated integrator, the loudness accumulator, the
meter's sample step, and RSTI. -/

namespace Sys2Proof.Machine

/-! ### The loudness accumulator -/

/-- The sum of a list from 0.0 up, in its order (R223). -/
def sumFrom (F : NumFormat) (l : List NUM) : NUM := l.foldl F.add .zero

/-- The mean-squares of the blocks whose loudness is not below the relative gate (R223). -/
def keptBlocks (F : NumFormat) (thr : NUM) (ms lu : List NUM) : List NUM :=
  ((ms.zip lu).filter fun b => F.ge b.2 thr).map Prod.fst

/-- `integrated()`, the two-pass gated mean of the history (R223). -/
def integrated (k : Params) (m : Meter) : NUM :=
  let F := k.num
  let u := lufs k (F.div (sumFrom F m.blkMS) (F.toNUM m.n))
  let kept := keptBlocks F (F.sub u k.relGate) m.blkMS m.blkLU
  if kept.isEmpty then u else lufs k (F.div (sumFrom F kept) (F.toNUM (BitVec.ofNat 32 kept.length)))

/-- A value into its place in a list in non-decreasing order. -/
def insertNum (F : NumFormat) (x : NUM) : List NUM → List NUM
  | [] => [x]
  | y :: ys => if F.le x y then x :: y :: ys else y :: insertNum F x ys

/-- A list in non-decreasing order (R224). -/
def sortNums (F : NumFormat) : List NUM → List NUM
  | [] => []
  | x :: xs => insertNum F x (sortNums F xs)

/-- The index of the 10th percentile, `n // 10` (R224). -/
def loIndex (n : U32) : Nat := (n / 10).toNat

/-- The index of the 95th percentile, `(n * 95) // 100` (R224). -/
def hiIndex (n : U32) : Nat := (n * 95 / 100).toNat

/-- `range()`, the loudness range of the whole history (R224). -/
def loudnessRange (F : NumFormat) (m : Meter) : NUM :=
  let sorted := sortNums F m.blkLU
  F.sub (sorted.getD (hiIndex m.n) .zero) (sorted.getD (loIndex m.n) .zero)

/-- An accepted block stored at the end of the history (R222). -/
def storeBlock (m : Meter) (ms l : NUM) : Meter :=
  { m with blkMS := m.blkMS ++ [ms], blkLU := m.blkLU ++ [l], n := m.n + 1 }

/-- The readouts an acceptance recomputes: INTEG always, LRA and DR once more than LRA_MINBLK blocks exist (R222, R224). -/
def acceptReadouts (k : Params) (m : Meter) (r : Readouts) : Readouts :=
  if k.lraMinBlk < m.n then
    { r with
      integ := integrated k m
      lra := loudnessRange k.num m
      dr := k.num.min (loudnessRange k.num m) k.drMax }
  else { r with integ := integrated k m }

/-- `offerBlock(ms)`: the absolute gate, strict; a passing block is stored, or dropped with BLKFULL when the history is
full (R222). -/
def offerBlock (ms : NUM) (s : State) : State :=
  if s.cfg.num.gt (lufs s.cfg ms) s.cfg.absGate then
    if s.lm.n < s.cfg.blkCap then
      let m := storeBlock s.lm ms (lufs s.cfg ms)
      { s with lm := m, ro := acceptReadouts s.cfg m s.ro }
    else s.setBlkfull true
  else s

/-! ### The gated integrator -/

/-- `gateAcc(p)`: one power sample into the partial block, which closes at N100 samples and is reset whether or not it
passes the gate (R220). -/
def gateAcc (p : NUM) (s : State) : State :=
  if s.n100 ≤ s.lm.gcnt + 1 then
    offerBlock (s.cfg.num.div (s.cfg.num.add s.lm.gsum p) (s.cfg.num.toNUM (s.lm.gcnt + 1)))
      { s with lm := { s.lm with gsum := .zero, gcnt := 0 } }
  else { s with lm := { s.lm with gsum := s.cfg.num.add s.lm.gsum p, gcnt := s.lm.gcnt + 1 } }

/-! ### The meter's sample step -/

/-- One stereo sample through K-weighting, power, both windows and the gate (R226). -/
def meterSample (xL xR : NUM) (s : State) : State :=
  let F := s.cfg.num
  let r0 := kwRun F s.lm .ch0 xL
  let r1 := kwRun F r0.2 .ch1 xR
  let p := power F r0.1 r1.1
  gateAcc p { s with lm := pushPower F s.n400 s.n3s r1.2 p }

/-- The history emptied (R228). -/
def clearHistory (m : Meter) : Meter := { m with blkMS := [], blkLU := [], n := 0 }

/-! ### The commands -/

/-- GI.ACC (R221). -/
def execGiAcc (p : NUM) (s : State) : Result := whenPrepared 0 s (gateAcc p s)

/-- LA.OFFER (R225). -/
def execLaOffer (ms : NUM) (s : State) : Result := whenPrepared 0 s (offerBlock ms s)

/-- LM.STEP (R226). -/
def execLmStep (xL xR : NUM) (s : State) : Result := whenPrepared 0 s (meterSample xL xR s)

/-- LM.STEPM (R227). -/
def execLmStepm (x : NUM) (s : State) : Result := whenPrepared 0 s (meterSample x x s)

/-- RSTI (R228): the history, INTEG, LRA, DR and BLKFULL; the partial block and the windows stay. -/
def execRsti (s : State) : Result :=
  whenPrepared 0 s
    (State.setBlkfull false
      { s with lm := clearHistory s.lm, ro := { s.ro with integ := lufs0 s.cfg, lra := .zero, dr := .zero } })

end Sys2Proof.Machine
end

