-- ==== Sys2Proof/Machine/System.lean ====
section
/-! DEFINITION. The system commands (46_system.md): NOP, PREPARE, RESET, RDR. (RSTI is with the loudness accumulator.) -/

namespace Sys2Proof.Machine

/-- NOP (R250): legal before PREPARE; nothing changes. -/
def execNop (s : State) : Result := .next s

/-- `fs >= FS_MIN and fs <= FS_MAX`, false for a NaN (R251). -/
def rateAccepted (k : Params) (fs : NUM) : Bool := k.num.ieeeLe k.fsMin fs && k.num.ieeeLe fs k.fsMax

/-- What RESET clears in the detector: the envelopes, the slow copies and the running peak (R252). -/
def clearDyn (d : Dyn) : Dyn := { d with env := .both .zero, ar := .both .zero, grmax := .zero }

/-- What RESET clears in the meter: the K-weighting delay lines, both windows and the partial block (R252). -/
def clearMeter (m : Meter) : Meter :=
  { m with
    kw := .both { s1 := clearedDelay, s2 := clearedDelay }
    winM := emptyWindow
    winS := emptyWindow
    gsum := .zero
    gcnt := 0 }

/-- The three coefficients of the detector from FS and its times (10 R41). -/
def prepareDyn (k : Params) (fs : NUM) (d : Dyn) : Dyn :=
  { d with
    attc := onePole k.num fs d.attack
    relc := onePole k.num fs d.release
    arc := onePole k.num fs k.arTauMs }

/-- A chain under a new sample rate: FREQ clamped again, the stage sets recomputed (R251). -/
def prepareChain (k : Params) (fs : NUM) (h : Chain) : Chain :=
  recomputeChain k fs { h with freq := clampFreq k fs h.freq }

/-- The readouts after PREPARE (10 R53). -/
def initialReadouts (k : Params) : Readouts :=
  { mom := lufs0 k, st := lufs0 k, integ := lufs0 k, lra := .zero, dr := .zero, gr := .zero }

/-- The state after an accepted PREPARE (R251): the rate and the counts, every derived coefficient, everything that is
not a configured parameter cleared. -/
def prepared (fs : NUM) (bs : U32) (s : State) : State :=
  { s with
    status := { prep := true, blkfull := false, ill := s.status.ill }
    fs := fs
    blksz := bs
    n100 := s.cfg.num.floorScaled fs s.cfg.tBlk
    n400 := s.cfg.num.floorScaled fs s.cfg.tMom
    n3s := s.cfg.num.floorScaled fs s.cfg.tSt
    bq := s.bq.map clearBiquad
    ch := s.ch.map fun h => clearChain (prepareChain s.cfg fs h)
    dyn := clearDyn (prepareDyn s.cfg fs s.dyn)
    lm := clearHistory (clearMeter (kwPrepare s.cfg fs s.lm))
    ro := initialReadouts s.cfg }

/-- PREPARE (R251): discarded where the rate is outside [FS_MIN, FS_MAX] (cause X3). -/
def execPrepare (fs : NUM) (bs : U32) (s : State) : Result :=
  .next (if rateAccepted s.cfg fs then prepared fs bs s else discard 0 s)

/-- The state after RESET with these units selected (R252). -/
def resetUnits (units : Nat) (s : State) : State :=
  { s with
    bq := if unitSelected units 0 then s.bq.map clearBiquad else s.bq
    ch := if unitSelected units 1 then s.ch.map clearChain else s.ch
    dyn := if unitSelected units 2 then clearDyn s.dyn else s.dyn
    lm := if unitSelected units 3 then clearMeter s.lm else s.lm }

/-- RESET (R252). -/
def execReset (units : Nat) (s : State) : Result := whenPrepared 0 s (resetUnits units s)

/-- RDR (R255): the word of a listed address; 0, with ILL set, of any other (cause X4). Legal before PREPARE. -/
def execRdr (addr : Nat) (s : State) : Result :=
  .next (match s.regRead addr with
    | some w => s.respond [w]
    | none => s.setIll.respond [0])

end Sys2Proof.Machine
end

