-- ==== Sys2Proof/Machine/Dispatch.lean ====
section
/-! DEFINITION. The meaning of every command: one arm per constructor, each one call of its meaning. -/

namespace Sys2Proof.Machine

-- The state is the one the packet executes in: its words are consumed and `cur` is its port.
def exec (i : Instr) (s : State) : Host.Outcome State Fault Refusal :=
  match i with
  | .nop => Sys2Proof.Machine.execNop s
  | .prepare fs bs => Sys2Proof.Machine.execPrepare fs bs s
  | .reset units => Sys2Proof.Machine.execReset units s
  | .rsti => Sys2Proof.Machine.execRsti s
  | .rdr addr => Sys2Proof.Machine.execRdr addr s
  | .bqSetc c b0 b1 b2 a1 a2 => Sys2Proof.Machine.execBqSetc c b0 b1 b2 a1 a2 s
  | .bqStep c x => Sys2Proof.Machine.execBqStep c x s
  | .bqRst c => Sys2Proof.Machine.execBqRst c s
  | .chSetp c ty orderReq freq => Sys2Proof.Machine.execChSetp c ty orderReq freq s
  | .chEn c en => Sys2Proof.Machine.execChEn c en s
  | .chStep c x => Sys2Proof.Machine.execChStep c x s
  | .chRst c => Sys2Proof.Machine.execChRst c s
  | .dynThr v => Sys2Proof.Machine.execDynThr v s
  | .dynRat v => Sys2Proof.Machine.execDynRat v s
  | .dynKne v => Sys2Proof.Machine.execDynKne v s
  | .dynAtt v => Sys2Proof.Machine.execDynAtt v s
  | .dynRel v => Sys2Proof.Machine.execDynRel v s
  | .dynLnk v => Sys2Proof.Machine.execDynLnk v s
  | .dynAuto en => Sys2Proof.Machine.execDynAuto en s
  | .envStep c level => Sys2Proof.Machine.execEnvStep c level s
  | .gcEval e => Sys2Proof.Machine.execGcEval e s
  | .dynStep sL sR => Sys2Proof.Machine.execDynStep sL sR s
  | .dynStepm x => Sys2Proof.Machine.execDynStepm x s
  | .dynPub => Sys2Proof.Machine.execDynPub s
  | .kwStep c x => Sys2Proof.Machine.execKwStep c x s
  | .swPush p => Sys2Proof.Machine.execSwPush p s
  | .lmPub => Sys2Proof.Machine.execLmPub s
  | .giAcc p => Sys2Proof.Machine.execGiAcc p s
  | .laOffer ms => Sys2Proof.Machine.execLaOffer ms s
  | .lmStep xL xR => Sys2Proof.Machine.execLmStep xL xR s
  | .lmStepm x => Sys2Proof.Machine.execLmStepm x s

end Sys2Proof.Machine
end

