-- ==== Sys2Proof/Machine/Step.lean ====
section
/-! DEFINITION. One step of the block (20 R78, 30 R95): the arbiter serves a port whose next packet is complete and whose
responses have room; the packet is decoded and executed, or discarded. With no such port the block waits. -/

namespace Sys2Proof.Machine

/-- Steps (2) to (4) of 30 R95 on a packet, in the state it executes in. -/
def runPacket (h : Word) (ops : List Word) (s : State) : Host.Outcome State Fault Refusal :=
  match decodePacket h ops with
  | some i => if hasCommand s.cfg i then exec i s else rejectHeader h s
  | none => rejectHeader h s

/-- One step. -/
def step (s : State) : Host.Outcome State Fault Refusal :=
  match s.fetch with
  | none => .next s
  | some (h, ops, t) => runPacket h ops t

/-- The state in which the very next step runs the instruction of the opcode table whose bits are `w`: its packet stands
on the processing port, alone (log 12). -/
def State.withFetchWord (s : State) (nbits w : Nat) : State :=
  s.onlyPresent .processing (firstPacket (tableWords nbits w))

end Sys2Proof.Machine
end

