-- ==== Sys2Proof/Safety.lean ====
section
/-! DEFINITION. The terms claims about runs use: completion, responses, the listed addresses, the side conditions of the
spec, the invariants the spec states after every command, events from outside, and the contract on the host. -/

namespace Sys2Proof.Machine

/-! ### Outcomes and responses -/

/-- The command or step answers a next state. -/
def Completes (r : Result) : Prop := ∃ t, r = .next t

/-- Commands executed one after another on the port of `cur`. -/
def runCommands : List Instr → State → Result
  | [], s => .next s
  | i :: is, s =>
    match exec i s with
    | .next t => runCommands is t
    | .fault f => .fault f
    | .refused r => .refused r

/-- From `s` to `t` the ports changed by exactly the response words `ws`, on the port of the executing command. -/
def Responds (s t : State) (ws : List Word) : Prop := t.cur = s.cur ∧ t.ports = (s.respond ws).ports

/-- The state that has no address (10 R50 a) and the configuration are the same. -/
def SameHidden (s t : State) : Prop :=
  t.lm.winM.q = s.lm.winM.q ∧ t.lm.winS.q = s.lm.winS.q ∧ t.lm.blkMS = s.lm.blkMS ∧ t.lm.blkLU = s.lm.blkLU ∧
    t.cfg = s.cfg

/-- OPC of a command: what its discard answers is `respWords` of it (60 R270 (4)). -/
def opcOfInstr (i : Instr) : Nat :=
  match encode i with
  | [] => 0
  | h :: _ => opcOf h

/-- The commands that are legal before an accepted PREPARE (30 R95 step 3). -/
def legalUnprepared : Instr → Bool
  | .nop | .prepare _ _ | .rdr _ => true
  | _ => false

/-! ### The listed addresses -/

/-- The ranges in which 10 R49 lists the addresses, first and last. -/
def listedRanges : List (Nat × Nat) := [
  (0x0000, 0x0006), (0x0010, 0x0018), (0x0020, 0x0028), (0x0100, 0x0103),
  (0x0110, 0x0118), (0x0120, 0x0128), (0x0130, 0x0138), (0x0140, 0x0148), (0x0180, 0x0183),
  (0x0190, 0x0198), (0x01A0, 0x01A8), (0x01B0, 0x01B8), (0x01C0, 0x01C8), (0x0200, 0x020E),
  (0x0300, 0x0309), (0x0310, 0x0317), (0x0320, 0x0327), (0x0340, 0x0343), (0x0350, 0x0351),
  (0x0360, 0x0360), (0x0400, 0x0405)]

/-- Those of channel 1. -/
def secondChannelRanges : List (Nat × Nat) := [
  (0x0020, 0x0028), (0x0180, 0x01C8), (0x020B, 0x020B), (0x020D, 0x020D), (0x0320, 0x0327)]

def inRanges (rs : List (Nat × Nat)) (a : Nat) : Bool := rs.any fun r => decide (r.1 ≤ a) && decide (a ≤ r.2)

/-- An address 10 R49 lists: c is below NCH and s below NSTAGE, where stage s of a chain stands at 0x10 * (s + 1). -/
def listed (k : Params) (a : Nat) : Bool :=
  inRanges listedRanges a && (k.nch == .two || !inRanges secondChannelRanges a) &&
    !(decide (0x0100 ≤ a) && decide (a < 0x0200) && decide (k.nstage.toNat < a % 0x80 / 0x10))

/-- Channel `c` is below NCH. -/
def hasChannel (k : Params) (c : Chan) : Bool := decide (c.code < k.nch.toNat)

/-- The power-on column of 10 R53 by address, its decimals in the format NUM: 0 but where the table gives another value. -/
def powerOnWord (k : Params) (a : Nat) : Word :=
  if a = 0x0000 then 0x4D420001
  else if a ∈ [0x0010, 0x0020, 0x0110, 0x0120, 0x0130, 0x0140, 0x0190, 0x01A0, 0x01B0, 0x01C0, 0x0201, 0x0205,
      0x0300, 0x0305] then k.num.one.bits
  else if a ∈ [0x0101, 0x0181] then 1
  else if a ∈ [0x0102, 0x0182] then (k.num.ofRat 1000 1).bits
  else if a = 0x0203 then (k.num.ofRat 10 1).bits
  else if a = 0x0204 then (k.num.ofRat 100 1).bits
  else if a ∈ [0x0400, 0x0401, 0x0402] then (lufs0 k).bits
  else 0

/-! ### The spec's own loops -/

/-- The stages of a chain in order. -/
def stageList (q : Four Biquad) : List Biquad := [q.s0, q.s1, q.s2, q.s3]

/-- Sections in series: each takes the output of the one before it (42 R155 b). -/
def inSeries (F : NumFormat) : List Biquad → NUM → NUM × List Biquad
  | [], v => (v, [])
  | b :: bs, v =>
    let r := biquadStep F b.coef b.st v
    let q := inSeries F bs r.1
    (q.1, { coef := b.coef, st := r.2 } :: q.2)

/-- The loop of 45 R223 over `i` in `0 .. n-1`: the sum and the number of the entries kept. -/
def loopSum (F : NumFormat) (ms : List NUM) (keep : Nat → Bool) : Nat → NUM × Nat
  | 0 => (.zero, 0)
  | i + 1 =>
    let r := loopSum F ms keep i
    if keep i then (F.add r.1 (ms.getD i .zero), r.2 + 1) else r

/-- 45 R223 as it is written, by index. -/
def integratedByIndex (k : Params) (ms lu : List NUM) (n : Nat) : NUM :=
  let F := k.num
  let u := lufs k (F.div (loopSum F ms (fun _ => true) n).1 (F.toNUM (BitVec.ofNat 32 n)))
  let thr := F.sub u k.relGate
  let kept := loopSum F ms (fun i => F.ge (lu.getD i .zero) thr) n
  if kept.2 = 0 then u else lufs k (F.div kept.1 (F.toNUM (BitVec.ofNat 32 kept.2)))

/-! ### The coefficient sets as 40_coef_functions.md writes them -/

/-- 40 R120. -/
def lowPassAsWritten (F : NumFormat) (fs f q : NUM) : Coef :=
  let one := F.ofRat 1 1
  let two := F.ofRat 2 1
  let w0 := F.div (F.mul (F.mul two F.pi) f) fs
  let cw := Config.fcos F w0
  let alpha := F.div (Config.fsin F w0) (F.mul two q)
  let a0 := F.add one alpha
  { b0 := F.div (F.div (F.sub one cw) two) a0
    b1 := F.div (F.sub one cw) a0
    b2 := F.div (F.div (F.sub one cw) two) a0
    a1 := F.div (F.mul two.neg cw) a0
    a2 := F.div (F.sub one alpha) a0 }

/-- 40 R121. -/
def highPassAsWritten (F : NumFormat) (fs f q : NUM) : Coef :=
  let one := F.ofRat 1 1
  let two := F.ofRat 2 1
  let w0 := F.div (F.mul (F.mul two F.pi) f) fs
  let cw := Config.fcos F w0
  let alpha := F.div (Config.fsin F w0) (F.mul two q)
  let a0 := F.add one alpha
  { b0 := F.div (F.div (F.add one cw) two) a0
    b1 := F.div (F.add one cw).neg a0
    b2 := F.div (F.div (F.add one cw) two) a0
    a1 := F.div (F.mul two.neg cw) a0
    a2 := F.div (F.sub one alpha) a0 }

/-- The table of 40 R123, by its rows and then its columns. -/
def stageQAsWritten (k : Params) (order s : Nat) : NUM :=
  if order = 1 then k.q1
  else if order = 2 then k.q2
  else if order = 3 then (if s = 0 then k.q3s0 else if s = 1 then k.q3s1 else k.qFill3)
  else if order = 4 then (if s = 0 then k.q4s0 else if s = 1 then k.q4s1 else k.qFill4)
  else k.num.ofRat 7071 10000

/-- The set of stage `s` of a chain (42 R151). -/
def stageSetAsWritten (k : Params) (ty : FilterType) (f : NUM) (order s : Nat) (fs : NUM) : Coef :=
  match ty with
  | .lowPass => lowPassAsWritten k.num fs f (stageQAsWritten k order s)
  | .highPass => highPassAsWritten k.num fs f (stageQAsWritten k order s)

/-- 40 R122; `t` is the rule's K. -/
def kw1AsWritten (k : Params) (fs : NUM) : Coef :=
  let F := k.num
  let one := F.ofRat 1 1
  let two := F.ofRat 2 1
  let t := Config.ftan F (F.div (F.mul F.pi k.kw1F0) fs)
  let vh := Config.fpow F (F.ofRat 10 1) (F.div k.kw1G (F.ofRat 20 1))
  let vb := Config.fpow F vh (F.ofRat 4996667741545416 (10 ^ 16))
  let a0 := F.add (F.add one (F.div t k.kw1Q)) (F.mul t t)
  { b0 := F.div (F.add (F.add vh (F.div (F.mul vb t) k.kw1Q)) (F.mul t t)) a0
    b1 := F.div (F.mul two (F.sub (F.mul t t) vh)) a0
    b2 := F.div (F.add (F.sub vh (F.div (F.mul vb t) k.kw1Q)) (F.mul t t)) a0
    a1 := F.div (F.mul two (F.sub (F.mul t t) one)) a0
    a2 := F.div (F.add (F.sub one (F.div t k.kw1Q)) (F.mul t t)) a0 }

/-! ### Which commands touch which state (10 R51, the "written by" columns of 10_state.md) -/

/-- PREPARE, or RESET with unit `u` selected. -/
def restartsUnit (u : Nat) : Instr → Bool
  | .prepare _ _ => true
  | .reset units => unitSelected units u
  | _ => false

/-- The commands that name instance `c` of BQ. -/
def namesBq (c : Chan) : Instr → Bool
  | .bqSetc c' _ _ _ _ _ | .bqStep c' _ | .bqRst c' => c' == c
  | _ => false

/-- The commands that name instance `c` of CH. -/
def namesCh (c : Chan) : Instr → Bool
  | .chSetp c' _ _ _ | .chEn c' _ | .chStep c' _ | .chRst c' => c' == c
  | _ => false

/-- The commands that advance the envelope follower of channel `c`. -/
def advancesEnv (c : Chan) : Instr → Bool
  | .envStep c' _ => c' == c
  | .dynStep _ _ | .dynStepm _ => true
  | _ => false

/-- The commands of the DYN family that write its state. -/
def writesDyn : Instr → Bool
  | .dynThr _ | .dynRat _ | .dynKne _ | .dynAtt _ | .dynRel _ | .dynLnk _ | .dynAuto _ | .envStep _ _ | .dynStep _ _
  | .dynStepm _ | .dynPub => true
  | _ => false

/-- The commands that advance the K-weighting filter of channel `c`. -/
def advancesKw (c : Chan) : Instr → Bool
  | .kwStep c' _ => c' == c
  | .lmStep _ _ | .lmStepm _ => true
  | _ => false

/-- The commands that may close a block or offer one. -/
def feedsHistory : Instr → Bool
  | .giAcc _ | .laOffer _ | .lmStep _ _ | .lmStepm _ => true
  | _ => false

/-- The commands that push into the windows. -/
def feedsWindows : Instr → Bool
  | .swPush _ | .lmStep _ _ | .lmStepm _ => true
  | _ => false

/-- The commands that add to the partial block. -/
def feedsGate : Instr → Bool
  | .giAcc _ | .lmStep _ _ | .lmStepm _ => true
  | _ => false

def isPrepare : Instr → Bool
  | .prepare _ _ => true
  | _ => false

/-! ### Side conditions: finite words (93 U1) and configuration bounds (00 R10) -/

/-- All four words of a delay line are finite. -/
def Delay.finite (F : NumFormat) (d : Delay) : Bool :=
  F.isFinite d.x1 && F.isFinite d.x2 && F.isFinite d.y1 && F.isFinite d.y2

/-- A finite word that the operations of the format can deliver: not a subnormal one where the format flushes (93 U3). -/
def deliverable (F : NumFormat) (x : NUM) : Bool :=
  F.isFinite x && (!F.flush || x.mag == 0 || decide (2 ^ F.fracBits ≤ x.mag))

/-- A sample rate has at most `2^32 - 2` samples in a length of time. -/
abbrev countFits (k : Params) (fs : NUM) (t : Frac) : Prop :=
  k.num.units fs * t.num < (2 ^ 32 - 1) * (t.den * 2 ^ k.num.unitExp)

/-- The bounds that keep the counts from wrapping (00 R10, 92 D9): FS_MIN gives N100 at least 1, FS_MAX gives counts below
2^32 - 1, and 95 times the history's capacity is below 2^32. -/
structure ParamsSane (k : Params) : Prop where
  minFinite : k.num.isFinite k.fsMin = true
  minPositive : k.fsMin.isNeg = false
  minSamples : k.tBlk.den * 2 ^ k.num.unitExp ≤ k.num.units k.fsMin * k.tBlk.num
  maxFinite : k.num.isFinite k.fsMax = true
  maxPositive : k.fsMax.isNeg = false
  blockFits : countFits k k.fsMax k.tBlk
  windowMFits : countFits k k.fsMax k.tMom
  windowSFits : countFits k k.fsMax k.tSt
  history : k.blkCap.toNat * 95 < 2 ^ 32

/-! ### The invariants of 10_state.md -/

/-- R45: the count of a window is the size of its queue and at most its capacity. -/
def WindowOk (cap : U32) (w : Window) : Prop := w.cnt.toNat = w.q.length ∧ w.q.length ≤ cap.toNat

/-- R45, R46: both windows are trimmed to capacity; once prepared, the counts are those of the sample rate and the
partial block is not complete. -/
structure SampleCountsOk (s : State) : Prop where
  params : ParamsSane s.cfg
  winM : WindowOk s.n400 s.lm.winM
  winS : WindowOk s.n3s s.lm.winS
  rate : s.status.prep = true → rateAccepted s.cfg s.fs = true
  n100 : s.status.prep = true → s.n100 = s.cfg.num.floorScaled s.fs s.cfg.tBlk
  n400 : s.status.prep = true → s.n400 = s.cfg.num.floorScaled s.fs s.cfg.tMom
  n3s : s.status.prep = true → s.n3s = s.cfg.num.floorScaled s.fs s.cfg.tSt
  gate : s.status.prep = true → s.lm.gcnt < s.n100

/-- R47, R48: the history holds `n` blocks, at most BLK_CAP, with their loudness values; BLKFULL says that it is full; INTEG,
LRA and DR are those of the history. -/
structure HistoryOk (s : State) : Prop where
  size : s.lm.n.toNat = s.lm.blkMS.length
  capacity : s.lm.n ≤ s.cfg.blkCap
  loudness : s.lm.blkLU = s.lm.blkMS.map (lufs s.cfg)
  full : s.status.blkfull = true → s.lm.n = s.cfg.blkCap
  integ : s.ro.integ = if s.lm.n = 0 then lufs0 s.cfg else integrated s.cfg s.lm
  lra : s.ro.lra = if s.cfg.lraMinBlk < s.lm.n then loudnessRange s.cfg.num s.lm else NUM.zero
  dr : s.ro.dr =
    if s.cfg.lraMinBlk < s.lm.n then s.cfg.num.min (loudnessRange s.cfg.num s.lm) s.cfg.drMax else NUM.zero

/-- R37, R38: ORDER is 1 to NSTAGE (4), and every stage set is that of the chain's parameters once prepared. -/
structure ChainOk (k : Params) (fs : NUM) (prep : Bool) (h : Chain) : Prop where
  orderMin : 1 ≤ h.order.toNat
  orderMax : h.order.toNat ≤ k.nstage.toNat
  sets : prep = true → ∀ i : Fin 4, (h.stage.get i).coef = stageSetAsWritten k h.ty h.freq h.order.toNat i fs

/-- R38, R41, R43: every derived coefficient is that of the current parameters. -/
structure DerivedOk (s : State) : Prop where
  chains : ∀ c, ChainOk s.cfg s.fs s.status.prep (s.ch.get c)
  attc : s.status.prep = true → s.dyn.attc = onePole s.cfg.num s.fs s.dyn.attack
  relc : s.status.prep = true → s.dyn.relc = onePole s.cfg.num s.fs s.dyn.release
  arc : s.status.prep = true → s.dyn.arc = onePole s.cfg.num s.fs s.cfg.arTauMs
  kwc1 : s.status.prep = true → s.lm.kwc1 = kw1AsWritten s.cfg s.fs
  kwc2 : s.status.prep = true → s.lm.kwc2 = highPassAsWritten s.cfg.num s.fs s.cfg.kw2F0 s.cfg.kw2Q

/-- No response port holds more words than it has room for (30 R101, 70 R300). -/
def ResponsesFit (s : State) : Prop := ∀ a, (s.ports.get a).resp.length ≤ s.respDepth

/-! ### Runs with the outside world -/

/-- What can happen next: the block steps, an agent presents words or reads responses, or power-on reset is applied. -/
inductive Event where
  | step
  | present (a : Agent) (ws : List Word)
  | drain (a : Agent) (k : Nat)
  | powerOn
  deriving DecidableEq, Repr

/-- The state after an event; a step that would stop leaves the state. Power-on reset does not restart `turn`, the
model's own counter, so that the arbiter's choices after it are not those before it again (20 R78 c; log 11). -/
def State.after (s : State) : Event → State
  | .step =>
    match Sys2Proof.Machine.step s with
    | .next t => t
    | _ => s
  | .present a ws => s.present a ws
  | .drain a k => s.drain a k
  | .powerOn => { State.powerOn s.cfg with turn := s.turn }

/-- The states of a run: event `n` leads from state `n` to state `n + 1`. -/
def IsRun (ev : Nat → Event) (st : Nat → State) : Prop := ∀ n, st (n + 1) = (st n).after (ev n)

/-- The fair arbiter of 20 R78 (e): a port that can be served is served at some later step (or its words are lost to
a power-on reset). -/
def Fair (ev : Nat → Event) (st : Nat → State) : Prop :=
  ∀ n a, ((st n).ports.get a).ready (st n).respDepth = true →
    ∃ m, n ≤ m ∧ ((ev m = .step ∧ (st m).served = some a) ∨ ev m = .powerOn)

/-! ### The contract on the host (20 R74, 60 R278) -/

/-- A sample step. By 00 R17 it "consumes one input sample per channel": DYN.STEP, DYN.STEPM, LM.STEP and LM.STEPM. DESIGN
CHOICE (log 22): the spec does not say whether the commands that drive one channel or one unit are sample steps (BQ.STEP,
CH.STEP, ENV.STEP and KW.STEP take a sample of one channel; GC.EVAL, SW.PUSH, GI.ACC and LA.OFFER take none); they are
counted as such here. -/
def isSampleStep : Instr → Bool
  | .bqStep _ _ | .chStep _ _ | .envStep _ _ | .gcEval _ | .dynStep _ _ | .dynStepm _ | .kwStep _ _ | .swPush _
  | .giAcc _ | .laOffer _ | .lmStep _ _ | .lmStepm _ => true
  | _ => false

/-- A block marker (00 R17). -/
def isBlockMarker : Instr → Bool
  | .dynPub | .lmPub => true
  | _ => false

/-- A setter of the control agent. -/
def isSetter : Instr → Bool
  | .bqSetc _ _ _ _ _ _ | .chSetp _ _ _ _ | .chEn _ _ | .dynThr _ | .dynRat _ | .dynKne _ | .dynAtt _ | .dynRel _
  | .dynLnk _ | .dynAuto _ => true
  | _ => false

/-- A command that restarts filters among sample steps: sent from the processing agent, or while it is stopped (70 R293).
20 R74 gives RESET to the processing agent; that BQ.RST, CH.RST and PREPARE are given to it too is log 23. -/
def isRestart : Instr → Bool
  | .prepare _ _ | .reset _ | .bqRst _ | .chRst _ => true
  | _ => false

/-- Which commands each agent issues while all of them run (20 R74, 60 R278). The block does not check this. DESIGN CHOICE
(log 23): R74 and R278 give NOP to no agent, and it is allowed to all three here; BQ.RST, CH.RST and PREPARE, which they
give to none, to the processing agent. -/
def Agent.issues : Agent → Instr → Bool
  | .processing, i => isSampleStep i || isBlockMarker i || isRestart i || i == .nop
  | .control, i => isSetter i || i == .rsti || i == .nop
  | .reader, .rdr _ => true
  | .reader, i => i == .nop

end Sys2Proof.Machine
end

