-- ==== Sys2Proof/Certificates/Slice0/Obligations.lean ====
section
/-! DEFINITION. The statements for the provers, from the numbered rules of spec/. OBLIGATIONS.json lists them. -/

open Sys2Proof Sys2Proof.Machine

/-! ### Encoding -/

/-- 30 R90 to R95: the words of a well-formed command decode to that command, whatever words follow them. -/
def Obligations.EncodedCommandsDecodeToThemselves : Prop :=
  ∀ (i : Instr) (rest : List Word), i.wellFormed = true → decode (encode i ++ rest) = .ok i

/-- 30 R94: a packet that decodes is the packet of the command it decodes to: no two packets mean one command. -/
def Obligations.DecodedPacketsEncodeBack : Prop :=
  ∀ (h : Word) (ops : List Word) (i : Instr), decodePacket h ops = some i → encode i = h :: ops ∧ i.wellFormed = true

/-- 30 R95 step 2, R96: with its operand words, a header decodes exactly when it matches a row of R94's table of match
and mask. -/
def Obligations.HeadersDecodeExactlyWhenARowMatches : Prop :=
  ∀ (h : Word) (ops : List Word), ops.length = nops (opcOf h) →
    ((decodePacket h ops).isSome = true ↔ headerLegal h = true)

/-- 30 R94, last sentence: no header matches two rows. -/
def Obligations.NoHeaderMatchesTwoRows : Prop :=
  ∀ (h : Word) (r r' : Row), r ∈ opcodeMap → r' ∈ opcodeMap → r.selects h = true → r'.selects h = true → r = r'

/-- 30 R102: the worked encodings, each way, with the binary32 words of their decimals. -/
def Obligations.WorkedEncodingsAreThoseOfTheSpec : Prop :=
  let F := NumFormat.binary32
  encode (.chSetp .ch1 .highPass 4 (F.ofRat 80 1)) = [0x20100104, 0x42A00000] ∧
  decode [0x20100104, 0x42A00000] = .ok (.chSetp .ch1 .highPass 4 (F.ofRat 80 1)) ∧
  encode (.bqStep .ch0 (F.ofRat 1 1)) = [0x11000000, 0x3F800000] ∧
  decode [0x11000000, 0x3F800000] = .ok (.bqStep .ch0 (F.ofRat 1 1)) ∧
  encode (.rdr 0x0402) = [0x04000402] ∧
  decode [0x04000402] = .ok (.rdr 0x0402) ∧
  encode (.reset 15) = [0x020F0000] ∧
  decode [0x020F0000] = .ok (.reset 15) ∧
  encode (.prepare (F.ofRat 48000 1) 512) = [0x01000000, 0x473B8000, 0x00000200] ∧
  decode [0x01000000, 0x473B8000, 0x00000200] = .ok (.prepare (F.ofRat 48000 1) 512)

/-! ### Steps -/

/-- 20 R78, 30 R90, R95 (`cur` and `turn` are the model's own fields, log 11): where the words at the head of the
served port are the packet of a well-formed command `i`, the step is `exec i` in the state with that packet consumed,
`cur` the port and `turn` one more; that state differs from the one before in nothing else. So it is for every command
of the source's two channels; an implementation of one channel (NCH, a choice of the model, log 3) discards a command
that names channel 1. -/
def Obligations.StepRunsTheDecodedCommand : Prop :=
  ∀ (s : State) (a : Agent) (i : Instr) (rest : List Word), i.wellFormed = true →
    s.served = some a → (s.ports.get a).cmd = encode i ++ rest →
    (s.cfg.nch = .two ∨ namesSecondChannel i = false → step s = exec i (s.accept a rest)) ∧
    (s.cfg.nch = .one → namesSecondChannel i = true →
      step s = .next (discard (respWords (opcOfInstr i)) (s.accept a rest))) ∧
      s.accept a rest =
        { s with ports := s.ports.set a { cmd := rest, resp := (s.ports.get a).resp }, cur := a, turn := s.turn + 1 }

/-- 30 R95 step 2, 60 R271 X1: a served packet whose header matches no row is consumed and discarded. -/
def Obligations.StepDiscardsIllegalHeaders : Prop :=
  ∀ (s : State) (a : Agent) (h : Word) (ops rest : List Word), s.served = some a →
    (s.ports.get a).cmd = h :: (ops ++ rest) → ops.length = nops (opcOf h) → headerLegal h = false →
    step s = .next (discard (respWords (opcOf h)) (s.accept a rest))

/-- 60 R270 (2) to (4): a discard sets ILL, answers `k` zero words on the port of the command, and changes no other
register, queue, history entry, port or parameter. -/
def Obligations.DiscardSetsIllAndAnswersZeros : Prop :=
  ∀ (k : Nat) (s : State),
    (∀ a, a ≠ 0x0001 → (discard k s).regRead a = s.regRead a) ∧
    (discard k s).regRead 0x0001 = some (s.status.word ||| 4) ∧
    SameHidden s (discard k s) ∧ Responds s (discard k s) (List.replicate k 0) ∧ (discard k s).turn = s.turn

/-- 30 R90, R101, 70 R290, R300: where every port's next packet is incomplete, or its response port lacks room,
nothing happens. That a wait is a step which answers the same state is the model's choice (log 9); that a packet which
will be discarded, for its header or before PREPARE, waits for room too is the model's reading of R101 (log 20). -/
def Obligations.StepWaitsWhereNoPacketCanExecute : Prop :=
  ∀ s : State,
    (∀ a h ops rest, splitPacket (s.ports.get a).cmd = some (h, ops, rest) →
      s.respDepth < (s.ports.get a).resp.length + respWords (opcOf h)) →
    step s = .next s

/-- 20 R78 (a), (b), 30 R90, R101, 60 R270: a step that is not a wait consumes exactly one packet, the oldest of one
port that had room for its responses, appends exactly the response words of its OPC to the same pair, and touches no
other port. That a wait answers the same state is log 9; that a discarded packet too comes only from a port with room
is the model's reading of R101 (log 20); `cur`, the port served, and `turn`, one more, are the model's own fields (log
11). -/
def Obligations.EachStepConsumesOnePacketOfOnePort : Prop :=
  ∀ s t : State, step s = .next t →
    (s.readyAgents = [] ∧ t = s) ∨
    ∃ a h ops rest ws, a ∈ s.readyAgents ∧ (s.ports.get a).cmd = h :: (ops ++ rest) ∧
      ops.length = nops (opcOf h) ∧ (t.ports.get a).cmd = rest ∧
      (t.ports.get a).resp = (s.ports.get a).resp ++ ws ∧ ws.length = respWords (opcOf h) ∧
      (∀ b, b ≠ a → t.ports.get b = s.ports.get b) ∧ t.cur = a ∧ t.turn = s.turn + 1

/-- 60, introduction, R271: every step completes: a command executes its rule or is discarded, and nothing else can
happen. Two cases are the model's choice: a step with no packet to run answers a next state, the same one (log 9), and
a command that meets a NaN or an infinity completes with a free value, where 93 U1 and U2 say refuse (log 4). -/
def Obligations.EveryStepCompletes : Prop := ∀ s : State, Completes (step s)

/-- 30 R101, 70 R300: no response port is ever filled beyond its room; that the room is `respDepth` words is the
model's choice (log 10). -/
def Obligations.StepKeepsResponsesWithinRoom : Prop :=
  ∀ s t : State, ResponsesFit s → step s = .next t → ResponsesFit t

/-! ### Flags and legality -/

/-- 10 R32: PREP and ILL are cleared by power-on reset only: no step clears them. -/
def Obligations.PrepAndIllAreSticky : Prop :=
  ∀ s t : State, step s = .next t →
    (s.status.prep = true → t.status.prep = true) ∧ (s.status.ill = true → t.status.ill = true)

/-- 60 R271: every cause of ILL: an illegal header, or one that names channel 1 where NCH = 1, a choice of the model
(X1; log 3), a command before PREPARE (X2), a rate out of range (X3), an unlisted address (X4), and no other. -/
def Obligations.IllIsSetByTheListedCausesOnly : Prop :=
  ∀ s t : State, step s = .next t → s.status.ill = false →
    (t.status.ill = true ↔
      ∃ h ops u, s.fetch = some (h, ops, u) ∧
        (headerLegal h = false ∨
          ∃ i, decodePacket h ops = some i ∧
            ((s.cfg.nch = .one ∧ namesSecondChannel i = true) ∨
             (s.status.prep = false ∧ legalUnprepared i = false) ∨
             (∃ fs bs, i = .prepare fs bs ∧ rateAccepted s.cfg fs = false) ∨
             (∃ a, i = .rdr a ∧ listed s.cfg a = false))))

/-- 10 R32: PREP is set by an accepted PREPARE only; BLKFULL is set only by a command that can offer a block, with the
history full, and cleared by RSTI and PREPARE only. -/
def Obligations.PrepAndBlkfullChangeWhereTheTableSays : Prop :=
  ∀ (i : Instr) (s t : State), exec i s = .next t →
    (s.status.prep = false → t.status.prep = true →
      ∃ fs bs, i = .prepare fs bs ∧ rateAccepted s.cfg fs = true) ∧
    (s.status.blkfull = false → t.status.blkfull = true → feedsHistory i = true ∧ s.cfg.blkCap ≤ s.lm.n) ∧
    (s.status.blkfull = true → t.status.blkfull = false → i = .rsti ∨ isPrepare i = true)

/-- 30 R95 step 3, 46 R258, 60 R271 X2: before an accepted PREPARE every command but NOP, PREPARE and RDR is
discarded, answering the zeros of its OPC. -/
def Obligations.UnpreparedCommandsAreDiscarded : Prop :=
  ∀ (i : Instr) (s : State), s.status.prep = false → legalUnprepared i = false →
    exec i s = .next (discard (respWords (opcOfInstr i)) s)

/-- 10 R33, 00 R6: ID reads 0x4D420001 in every state, and no step writes the implementation's parameters (that they
stand in the state is the model's choice, log 3). -/
def Obligations.IdAndParametersNeverChange : Prop :=
  (∀ s : State, s.regRead 0x0000 = some 0x4D420001) ∧ (∀ s t : State, step s = .next t → t.cfg = s.cfg)

/-! ### The register address space -/

/-- 10 R49: the listed addresses are exactly those that read as a register, and each reads the element the map names:
c below NCH, 2 in the source, and s below NSTAGE, 4 in the source (that the map follows the two parameters is log 3).
-/
def Obligations.RegisterMapIsTheTable : Prop :=
  ∀ s : State,
    (∀ a, (s.regRead a).isSome = listed s.cfg a) ∧
    s.regRead 0x0000 = some 0x4D420001 ∧ s.regRead 0x0001 = some s.status.word ∧ s.regRead 0x0002 = some s.fs.bits ∧
    s.regRead 0x0003 = some s.blksz ∧ s.regRead 0x0004 = some s.n100 ∧ s.regRead 0x0005 = some s.n400 ∧
    s.regRead 0x0006 = some s.n3s ∧
    (∀ c k, hasChannel s.cfg c = true → k < 9 → s.regRead (0x0010 + 0x10 * c.code + k) = biquadReg (s.bq.get c) k) ∧
    (∀ c, hasChannel s.cfg c = true → s.regRead (0x0100 + 0x80 * c.code) = some (typeWord (s.ch.get c).ty) ∧
      s.regRead (0x0101 + 0x80 * c.code) = some (s.ch.get c).order ∧
      s.regRead (0x0102 + 0x80 * c.code) = some (s.ch.get c).freq.bits ∧
      s.regRead (0x0103 + 0x80 * c.code) = some (boolWord (s.ch.get c).en)) ∧
    (∀ (c : Chan) (i : Fin 4) (k : Nat), hasChannel s.cfg c = true → i.val < s.cfg.nstage.toNat → k < 9 →
      s.regRead (0x0100 + 0x80 * c.code + 0x10 * (i + 1) + k) = biquadReg ((s.ch.get c).stage.get i) k) ∧
    (∀ b : Biquad, (List.range 9).map (biquadReg b) =
      [b.coef.b0, b.coef.b1, b.coef.b2, b.coef.a1, b.coef.a2, b.st.x1, b.st.x2, b.st.y1, b.st.y2].map
        fun x => some x.bits) ∧
    (List.range 15).map (fun k => s.regRead (0x0200 + k)) =
      [some s.dyn.thresh.bits, some s.dyn.ratio.bits, some s.dyn.knee.bits, some s.dyn.attack.bits,
       some s.dyn.release.bits, some s.dyn.link.bits, some (boolWord s.dyn.auto), some s.dyn.attc.bits,
       some s.dyn.relc.bits, some s.dyn.arc.bits,
       some s.dyn.env.ch0.bits, (if hasChannel s.cfg .ch1 then some s.dyn.env.ch1.bits else none),
       some s.dyn.ar.ch0.bits, (if hasChannel s.cfg .ch1 then some s.dyn.ar.ch1.bits else none),
       some s.dyn.grmax.bits] ∧
    (List.range 10).map (fun k => s.regRead (0x0300 + k)) =
      [s.lm.kwc1.b0, s.lm.kwc1.b1, s.lm.kwc1.b2, s.lm.kwc1.a1, s.lm.kwc1.a2,
       s.lm.kwc2.b0, s.lm.kwc2.b1, s.lm.kwc2.b2, s.lm.kwc2.a1, s.lm.kwc2.a2].map (fun x => some x.bits) ∧
    (∀ c : Chan, hasChannel s.cfg c = true → (List.range 8).map (fun k => s.regRead (0x0310 + 0x10 * c.code + k)) =
      [(s.lm.kw.get c).s1.x1, (s.lm.kw.get c).s1.x2, (s.lm.kw.get c).s1.y1, (s.lm.kw.get c).s1.y2,
       (s.lm.kw.get c).s2.x1, (s.lm.kw.get c).s2.x2, (s.lm.kw.get c).s2.y1, (s.lm.kw.get c).s2.y2].map
        fun x => some x.bits) ∧
    s.regRead 0x0340 = some s.lm.winM.cnt ∧ s.regRead 0x0341 = some s.lm.winM.sum.bits ∧
    s.regRead 0x0342 = some s.lm.winS.cnt ∧ s.regRead 0x0343 = some s.lm.winS.sum.bits ∧
    s.regRead 0x0350 = some s.lm.gsum.bits ∧ s.regRead 0x0351 = some s.lm.gcnt ∧ s.regRead 0x0360 = some s.lm.n ∧
    (List.range 6).map (fun k => s.regRead (0x0400 + k)) =
      [s.ro.mom, s.ro.st, s.ro.integ, s.ro.lra, s.ro.dr, s.ro.gr].map (fun x => some x.bits)

/-- 46 R255: RDR answers exactly one word, prepared or not: the register's word at a listed address; at any other 0,
with ILL set. Nothing else changes. Listed are the addresses of 10 R49 for c below NCH and s below NSTAGE: all of them
with the source's 2 and 4; that an implementation with fewer lacks the others is the model's choice (log 3). -/
def Obligations.RdrReadsOneWord : Prop :=
  ∀ (s : State) (addr : Nat), addr < 65536 →
    encode (.rdr addr) = [0x04000000 + BitVec.ofNat 32 addr] ∧
    (listed s.cfg addr = true → ∃ w, s.regRead addr = some w ∧ exec (.rdr addr) s = .next (s.respond [w])) ∧
    (listed s.cfg addr = false →
      exec (.rdr addr) s = .next (State.respond { s with status := { s.status with ill := true } } [0]))

/-- 10 R53, power-on column, 70 R290 (a) (LUFS0 through the free log10, log 13; the formats NUM ranges over, log 1):
every register listed for NCH and NSTAGE (log 3) after power-on reset, every queue and history empty, both kinds of
port empty, for every implementation; by default the decimals of the table are the binary32 words of 1.0, 1000.0, 10.0
and 100.0. -/
def Obligations.PowerOnGivesTheTablesValues : Prop :=
  ∀ k : Params,
    (∀ a, listed k a = true → (State.powerOn k).regRead a = some (powerOnWord k a)) ∧
    (State.powerOn k).lm.winM.q = [] ∧ (State.powerOn k).lm.winS.q = [] ∧
    (State.powerOn k).lm.blkMS = [] ∧ (State.powerOn k).lm.blkLU = [] ∧
    (∀ a, (State.powerOn k).ports.get a = { cmd := [], resp := [] }) ∧
    (State.powerOn k).cfg = k ∧ State.reset = State.powerOn Params.default ∧
    [0x0205, 0x0102, 0x0203, 0x0204].map (powerOnWord Params.default) =
      [0x3F800000, 0x447A0000, 0x41200000, 0x42C80000]

/-! ### Invariants -/

/-- 10 R38, R41, R43, R45 to R48, R53, 70 R290 (a), R300: the four invariants that every step keeps (ResponsesFit,
above, and the three below) hold after power-on reset of every implementation whose parameters meet the side
conditions of 00 R10, and the parameters of 00 R6 meet them. That the parameters stand in the state, and so in the
invariants, is log 3, the room of a response port log 10. -/
def Obligations.ResetMeetsTheInvariants : Prop :=
  (∀ k : Params, ParamsSane k →
    SampleCountsOk (State.powerOn k) ∧ HistoryOk (State.powerOn k) ∧ DerivedOk (State.powerOn k) ∧
      ResponsesFit (State.powerOn k)) ∧
  ParamsSane Params.default ∧
  SampleCountsOk State.reset ∧ HistoryOk State.reset ∧ DerivedOk State.reset ∧ ResponsesFit State.reset

/-- 10 R45, R46: every step keeps both windows within their capacities, their counts equal to their sizes, and the
partial block below N100. -/
def Obligations.StepKeepsSampleCounts : Prop :=
  ∀ s t : State, SampleCountsOk s → step s = .next t → SampleCountsOk t

/-- 10 R47, R48, 45 R222, R224: every step keeps the history within BLK_CAP, its loudness list that of its
mean-squares, and INTEG, LRA and DR those of the history. -/
def Obligations.StepKeepsHistoryAndReadouts : Prop :=
  ∀ s t : State, HistoryOk s → step s = .next t → HistoryOk t

/-- 10 R38, R41, R43, 40 R120 to R123: every step keeps every derived coefficient that of the current parameters (the
coefficient sets as 40 writes them), and ORDER in 1 to NSTAGE (4 in the source; a parameter of the configuration, log
3). -/
def Obligations.StepKeepsDerivedCoefficients : Prop :=
  ∀ s t : State, DerivedOk s → step s = .next t → DerivedOk t

/-! ### System commands -/

/-- 46 R250: NOP, the all-zero word, changes nothing and answers nothing, prepared or not. -/
def Obligations.NopChangesNothing : Prop :=
  ∀ s : State, encode .nop = [0x00000000] ∧ exec .nop s = .next s

/-- 46 R251, 60 R271 X3, 40 R120 to R123: a PREPARE whose rate is in [FS_MIN, FS_MAX] reinitialises the block: each
field of the state after it, the coefficient sets as 40 writes them (stage 1 of the K-weighting in full here, the
chains and stage 2 in Safety.lean). Any other rate, a NaN or an infinity among them, is discarded: only ILL changes.
-/
def Obligations.PrepareReinitialises : Prop :=
  ∀ (s : State) (fs : NUM) (bs : U32),
    let k := s.cfg
    let F := k.num
    let one := F.ofRat 1 1
    let two := F.ofRat 2 1
    let K := Config.ftan F (F.div (F.mul F.pi k.kw1F0) fs)
    let Vh := Config.fpow F (F.ofRat 10 1) (F.div k.kw1G (F.ofRat 20 1))
    let Vb := Config.fpow F Vh (F.ofRat 4996667741545416 (10 ^ 16))
    let a0 := F.add (F.add one (F.div K k.kw1Q)) (F.mul K K)
    encode (.prepare fs bs) = [0x01000000, fs.bits, bs] ∧
    (¬ (F.ieeeLe k.fsMin fs = true ∧ F.ieeeLe fs k.fsMax = true) →
      exec (.prepare fs bs) s = .next { s with status := { s.status with ill := true } }) ∧
    (F.ieeeLe k.fsMin fs = true → F.ieeeLe fs k.fsMax = true →
    ∃ t, exec (.prepare fs bs) s = .next t ∧
      t.status = { prep := true, blkfull := false, ill := s.status.ill } ∧
      t.fs = fs ∧ t.blksz = bs ∧
      t.n100 = F.floorScaled fs k.tBlk ∧ t.n400 = F.floorScaled fs k.tMom ∧ t.n3s = F.floorScaled fs k.tSt ∧
      (∀ c, t.bq.get c = { coef := (s.bq.get c).coef, st := clearedDelay }) ∧
      (∀ c, (t.ch.get c).ty = (s.ch.get c).ty ∧ (t.ch.get c).order = (s.ch.get c).order ∧
        (t.ch.get c).en = (s.ch.get c).en ∧
        (t.ch.get c).freq = F.clamp (s.ch.get c).freq k.chFmin (F.mul k.chFmaxK fs) ∧
        ∀ i, (t.ch.get c).stage.get i =
          { coef := stageSetAsWritten k (s.ch.get c).ty (t.ch.get c).freq (s.ch.get c).order.toNat i fs
            st := clearedDelay }) ∧
      t.dyn =
        { s.dyn with
          attc := onePole F fs s.dyn.attack
          relc := onePole F fs s.dyn.release
          arc := onePole F fs k.arTauMs
          env := { ch0 := .zero, ch1 := .zero }
          ar := { ch0 := .zero, ch1 := .zero }
          grmax := .zero } ∧
      t.lm =
        { kwc1 :=
            { b0 := F.div (F.add (F.add Vh (F.div (F.mul Vb K) k.kw1Q)) (F.mul K K)) a0
              b1 := F.div (F.mul two (F.sub (F.mul K K) Vh)) a0
              b2 := F.div (F.add (F.sub Vh (F.div (F.mul Vb K) k.kw1Q)) (F.mul K K)) a0
              a1 := F.div (F.mul two (F.sub (F.mul K K) one)) a0
              a2 := F.div (F.add (F.sub one (F.div K k.kw1Q)) (F.mul K K)) a0 }
          kwc2 := highPassAsWritten F fs k.kw2F0 k.kw2Q
          kw := { ch0 := { s1 := clearedDelay, s2 := clearedDelay }, ch1 := { s1 := clearedDelay, s2 := clearedDelay } }
          winM := { q := [], cnt := 0, sum := .zero }
          winS := { q := [], cnt := 0, sum := .zero }
          gsum := .zero, gcnt := 0, blkMS := [], blkLU := [], n := 0 } ∧
      t.ro = { mom := lufs k .zero, st := lufs k .zero, integ := lufs k .zero, lra := .zero, dr := .zero, gr := .zero } ∧
      t.ports = s.ports ∧ t.cur = s.cur ∧ t.turn = s.turn ∧ t.cfg = s.cfg)

/-- 46 R252: RESET clears the delay lines, envelopes, windows and partial block of the selected units and nothing
else: no parameter, coefficient, flag, readout or history entry. -/
def Obligations.ResetClearsTheSelectedUnits : Prop :=
  ∀ (s : State) (units : Nat), units < 16 → s.status.prep = true →
    encode (.reset units) = [0x02000000 + BitVec.ofNat 32 (units * 2 ^ 16)] ∧
    ∃ t, exec (.reset units) s = .next t ∧
      (∀ c, t.bq.get c = if units.testBit 0 then { s.bq.get c with st := clearedDelay } else s.bq.get c) ∧
      (∀ c, t.ch.get c = if units.testBit 1
        then { s.ch.get c with stage := (s.ch.get c).stage.map fun b => { b with st := clearedDelay } }
        else s.ch.get c) ∧
      t.dyn = (if units.testBit 2
        then { s.dyn with
          env := { ch0 := .zero, ch1 := .zero }, ar := { ch0 := .zero, ch1 := .zero }, grmax := .zero }
        else s.dyn) ∧
      t.lm = (if units.testBit 3
        then { s.lm with
          kw := { ch0 := { s1 := clearedDelay, s2 := clearedDelay }, ch1 := { s1 := clearedDelay, s2 := clearedDelay } }
          winM := { q := [], cnt := 0, sum := .zero }
          winS := { q := [], cnt := 0, sum := .zero }
          gsum := .zero, gcnt := 0 }
        else s.lm) ∧
      t = { s with bq := t.bq, ch := t.ch, dyn := t.dyn, lm := t.lm }

/-- 45 R228: RSTI clears the history, INTEG, LRA, DR and BLKFULL, and leaves the filters, the windows, the partial
block, MOM and ST. -/
def Obligations.RstiClearsTheHistoryOnly : Prop :=
  ∀ s : State, s.status.prep = true →
    encode .rsti = [0x03000000] ∧
    exec .rsti s = .next
      { s with
        status := { s.status with blkfull := false }
        lm := { s.lm with blkMS := [], blkLU := [], n := 0 }
        ro := { s.ro with integ := lufs s.cfg .zero, lra := .zero, dr := .zero } }

/-! ### BQ -/

/-- 41 R140: BQ.SETC stores its five operand words as given, as one set, and leaves the delay line and everything
else. -/
def Obligations.BqSetcReplacesTheWholeSet : Prop :=
  ∀ (s : State) (c : Chan) (b0 b1 b2 a1 a2 : NUM), s.status.prep = true →
    encode (.bqSetc c b0 b1 b2 a1 a2) =
      [match c with | .ch0 => 0x10000000 | .ch1 => 0x10100000, b0.bits, b1.bits, b2.bits, a1.bits, a2.bits] ∧
    let set : Coef := { b0 := b0, b1 := b1, b2 := b2, a1 := a1, a2 := a2 }
    exec (.bqSetc c b0 b1 b2 a1 a2) s = .next { s with bq := s.bq.set c { coef := set, st := (s.bq.get c).st } }

/-- 41 R141, R142: BQ.STEP answers the output of the recurrence, evaluated left to right on the delay line from before
the step, moves the delay line once, and leaves everything else. -/
def Obligations.BqStepRunsTheRecurrenceOnce : Prop :=
  ∀ (s : State) (c : Chan) (x : NUM), s.status.prep = true →
    let F := s.cfg.num
    let k := (s.bq.get c).coef
    let d := (s.bq.get c).st
    let out := F.sub (F.sub (F.add (F.add (F.mul k.b0 x) (F.mul k.b1 d.x1)) (F.mul k.b2 d.x2)) (F.mul k.a1 d.y1))
      (F.mul k.a2 d.y2)
    encode (.bqStep c x) = [match c with | .ch0 => 0x11000000 | .ch1 => 0x11100000, x.bits] ∧
    exec (.bqStep c x) s = .next (State.respond
      { s with bq := s.bq.set c ({ coef := k, st := { x1 := x, x2 := d.x1, y1 := out, y2 := d.y1 } } : Biquad) }
      [out.bits])

/-- 41 R143: BQ.RST zeroes the four delay words of its instance, keeps the set, and leaves everything else. -/
def Obligations.BqRstZeroesTheDelayLine : Prop :=
  ∀ (s : State) (c : Chan), s.status.prep = true →
    encode (.bqRst c) = [match c with | .ch0 => 0x12000000 | .ch1 => 0x12100000] ∧
    let zeros : Delay := { x1 := ⟨0⟩, x2 := ⟨0⟩, y1 := ⟨0⟩, y2 := ⟨0⟩ }
    exec (.bqRst c) s = .next { s with bq := s.bq.set c { coef := (s.bq.get c).coef, st := zeros } }

/-- 41 R142, corner cases, R144: with the identity set and a finite delay line, a finite input that is not zero is
answered bit for bit (in a format that flushes, 93 U3, a normal one), and a zero input is answered by a zero. -/
def Obligations.IdentityBiquadAnswersItsInput : Prop :=
  ∀ (s : State) (c : Chan) (x : NUM), s.status.prep = true →
    (s.bq.get c).coef = { b0 := s.cfg.num.one, b1 := .zero, b2 := .zero, a1 := .zero, a2 := .zero } →
    Delay.finite s.cfg.num (s.bq.get c).st = true → deliverable s.cfg.num x = true →
    ∃ t y, exec (.bqStep c x) s = .next t ∧ Responds s t [y.bits] ∧
      (x.mag ≠ 0 → y = x) ∧ (x.mag = 0 → y.mag = 0)

/-- 41 R144: from any two prepared states of one NUM (a parameter that no step writes, log 3) in which instance `c`
holds the same set, BQ.RST c and then the same inputs give the same responses, word for word, one per input. -/
def Obligations.BqResponsesRepeatAfterReset : Prop :=
  ∀ (s s' : State) (c : Chan) (xs : List NUM), s.status.prep = true → s'.status.prep = true →
    s.cfg.num = s'.cfg.num → (s.bq.get c).coef = (s'.bq.get c).coef →
    ∃ t t' ws, runCommands (.bqRst c :: xs.map (.bqStep c)) s = .next t ∧
      runCommands (.bqRst c :: xs.map (.bqStep c)) s' = .next t' ∧
      Responds s t ws ∧ Responds s' t' ws ∧ ws.length = xs.length

/-! ### CH -/

/-- 42 R150, R151, 40 R120, R121, R123: CH.SETP clamps the order request to [1, NSTAGE], [1, 4] in the source (log 3),
and the frequency to [CH_FMIN, CH_FMAXK * FS], stores type, order and frequency, recomputes all four sets by the
cookbook's formulas with the Q of the table by order and stage, and leaves the delay lines, EN and everything else. -/
def Obligations.ChSetpClampsAndRecomputes : Prop :=
  ∀ (s : State) (c : Chan) (ty : FilterType) (orderReq : Nat) (freq : NUM), orderReq < 16 → s.status.prep = true →
    encode (.chSetp c ty orderReq freq) =
      [(match c with | .ch0 => (0x20000000 : Word) | .ch1 => 0x20100000) +
        (match ty with | .lowPass => (0 : Word) | .highPass => 0x100) + BitVec.ofNat 32 orderReq, freq.bits] ∧
    let k := s.cfg
    let F := k.num
    let one := F.ofRat 1 1
    let two := F.ofRat 2 1
    let order := min (max orderReq 1) k.nstage.toNat
    let f := F.clamp freq k.chFmin (F.mul k.chFmaxK s.fs)
    let w0 := F.div (F.mul (F.mul two F.pi) f) s.fs
    let cw := Config.fcos F w0
    let q (i : Fin 4) : NUM :=
      if order = 1 then k.q1
      else if order = 2 then k.q2
      else if order = 3 then (if i = 0 then k.q3s0 else if i = 1 then k.q3s1 else k.qFill3)
      else (if i = 0 then k.q4s0 else if i = 1 then k.q4s1 else k.qFill4)
    let alpha (i : Fin 4) := F.div (Config.fsin F w0) (F.mul two (q i))
    let a0 (i : Fin 4) := F.add one (alpha i)
    ∃ h : Chain, exec (.chSetp c ty orderReq freq) s = .next { s with ch := s.ch.set c h } ∧
      h.ty = ty ∧ h.order.toNat = order ∧ h.freq = f ∧ h.en = (s.ch.get c).en ∧
      ∀ i : Fin 4,
        (h.stage.get i).st = ((s.ch.get c).stage.get i).st ∧
        (h.stage.get i).coef =
          { b0 := match ty with
              | .lowPass => F.div (F.div (F.sub one cw) two) (a0 i)
              | .highPass => F.div (F.div (F.add one cw) two) (a0 i)
            b1 := match ty with
              | .lowPass => F.div (F.sub one cw) (a0 i)
              | .highPass => F.div (F.add one cw).neg (a0 i)
            b2 := match ty with
              | .lowPass => F.div (F.div (F.sub one cw) two) (a0 i)
              | .highPass => F.div (F.div (F.add one cw) two) (a0 i)
            a1 := F.div (F.mul two.neg cw) (a0 i)
            a2 := F.div (F.sub one (alpha i)) (a0 i) }

/-- 42 R152: CH.EN writes EN of its instance and nothing else. -/
def Obligations.ChEnWritesTheFlagOnly : Prop :=
  ∀ (s : State) (c : Chan) (en : Bool), s.status.prep = true →
    encode (.chEn c en) =
      [(match c with | .ch0 => (0x21000000 : Word) | .ch1 => 0x21100000) + (if en then 1 else 0)] ∧
    exec (.chEn c en) s = .next { s with ch := s.ch.set c { s.ch.get c with en := en } }

/-- 42 R153, R155 (a), (b): a disabled chain answers the operand word and changes nothing; an enabled one of order n
runs its first n stages in series, answers the last output, and leaves the other stages and everything else. -/
def Obligations.ChStepRunsOrderStagesInSeries : Prop :=
  ∀ (s : State) (c : Chan) (x : NUM), s.status.prep = true →
    encode (.chStep c x) = [match c with | .ch0 => 0x22000000 | .ch1 => 0x22100000, x.bits] ∧
    ((s.ch.get c).en = false → exec (.chStep c x) s = .next (s.respond [x.bits])) ∧
    ((s.ch.get c).en = true →
      let stages := stageList (s.ch.get c).stage
      let n := (s.ch.get c).order.toNat
      let r := inSeries s.cfg.num (stages.take n) x
      ∃ q : Four Biquad, stageList q = r.2 ++ stages.drop n ∧
        exec (.chStep c x) s = .next (State.respond
          { s with ch := s.ch.set c { s.ch.get c with stage := q } } [r.1.bits]))

/-- 42 R154: CH.RST zeroes the delay lines of all four stages whatever ORDER is, and leaves the parameters, EN, the
sets and everything else. -/
def Obligations.ChRstZeroesAllFourStages : Prop :=
  ∀ (s : State) (c : Chan), s.status.prep = true →
    encode (.chRst c) = [match c with | .ch0 => 0x23000000 | .ch1 => 0x23100000] ∧
    ∃ q : Four Biquad,
      exec (.chRst c) s = .next { s with ch := s.ch.set c { s.ch.get c with stage := q } } ∧
      ∀ i : Fin 4, q.get i =
        { coef := ((s.ch.get c).stage.get i).coef, st := { x1 := ⟨0⟩, x2 := ⟨0⟩, y1 := ⟨0⟩, y2 := ⟨0⟩ } }

/-! ### DYN -/

/-- 43 R170, R171, R172, R175: the four setters that only clamp and store, each leaving everything else. -/
def Obligations.DynSettersClampAndStore : Prop :=
  ∀ (s : State) (v : NUM), s.status.prep = true →
    let k := s.cfg
    exec (.dynThr v) s = .next { s with dyn := { s.dyn with thresh := k.num.clamp v k.thrMin k.thrMax } } ∧
    exec (.dynRat v) s = .next { s with dyn := { s.dyn with ratio := k.num.clamp v k.ratMin k.ratMax } } ∧
    exec (.dynKne v) s = .next { s with dyn := { s.dyn with knee := k.num.clamp v k.kneMin k.kneMax } } ∧
    exec (.dynLnk v) s = .next { s with dyn := { s.dyn with link := k.num.clamp v k.lnkMin k.lnkMax } } ∧
    encode (.dynThr v) = [0x30000000, v.bits] ∧ encode (.dynRat v) = [0x30010000, v.bits] ∧
    encode (.dynKne v) = [0x30020000, v.bits] ∧ encode (.dynLnk v) = [0x30050000, v.bits]

/-- 43 R173, R174, 40 R124: the two time setters clamp, store, and recompute their own one-pole coefficient by `1 -
exp(-1 / (FS * t * 0.001))`, leaving everything else. -/
def Obligations.DynTimesRecomputeTheirCoefficient : Prop :=
  ∀ (s : State) (v : NUM), s.status.prep = true →
    let F := s.cfg.num
    let ta := F.clamp v s.cfg.attMin s.cfg.attMax
    let tr := F.clamp v s.cfg.relMin s.cfg.relMax
    let pole (t : NUM) :=
      F.sub F.one (Config.fexp F (F.div (F.ofRat 1 1).neg (F.mul (F.mul s.fs t) (F.ofRat 1 1000))))
    exec (.dynAtt v) s = .next { s with dyn := { s.dyn with attack := ta, attc := pole ta } } ∧
    exec (.dynRel v) s = .next { s with dyn := { s.dyn with release := tr, relc := pole tr } } ∧
    encode (.dynAtt v) = [0x30030000, v.bits] ∧ encode (.dynRel v) = [0x30040000, v.bits]

/-- 43 R176: DYN.AUTO writes AUTO and nothing else; the slow copies keep their values. -/
def Obligations.DynAutoWritesTheFlagOnly : Prop :=
  ∀ (s : State) (en : Bool), s.status.prep = true →
    encode (.dynAuto en) = [0x31000000 + (if en then 1 else 0)] ∧
    exec (.dynAuto en) s = .next { s with dyn := { s.dyn with auto := en } }

/-- 43 R177 to R179, ASSUMING AUTOREL_MAP as configured (log 7): ENV.STEP advances the follower of its channel: the
slow copy first and only while AUTO = 1, the attack coefficient when the level is strictly above the envelope, the
release coefficient otherwise; with AUTO = 1 that of the release time, AR_REL_MAX at the lower end of the map's input
range down to AR_REL_MIN at its upper end: the default's, or, where the configuration names another map, the word of
its table that is nearest to the line within its slack, in the release range. It answers the new envelope and leaves
everything else, grmax too. -/
def Obligations.EnvStepAdvancesOneFollower : Prop :=
  ∀ (s : State) (c : Chan) (level : NUM), s.status.prep = true →
    let d := s.dyn
    let a := d.ar.get c
    let e := d.env.get c
    let F := s.cfg.num
    let a' := if d.auto then F.add a (F.mul d.arc (F.sub level a)) else a
    let range := F.sub s.cfg.arRelMax s.cfg.arRelMin
    let line (place : NUM) := F.sub s.cfg.arRelMax (F.mul range place)
    let time := match s.cfg.autoRelMap with
      | .linear => line (F.clamp a' .zero (F.ofRat 1 1))
      | .other lo hi fit =>
        let word := nearFormula fit (line (F.div (F.sub (F.clamp a' lo hi) lo) (F.sub hi lo))).mag
          (fallingSteps fit.steps s.cfg.arRelMax.mag a')
        NUM.ofSignMag false (max s.cfg.arRelMin.mag (min s.cfg.arRelMax.mag word))
    let rc := if d.auto then onePole F s.fs time else d.relc
    let k := if F.gt level e then d.attc else rc
    let e' := F.add e (F.mul k (F.sub level e))
    encode (.envStep c level) = [match c with | .ch0 => 0x32000000 | .ch1 => 0x32100000, level.bits] ∧
    exec (.envStep c level) s = .next (State.respond
      { s with dyn := { d with ar := d.ar.set c a', env := d.env.set c e' } } [e'.bits])

/-- 40 R125, R126, 43 R180 to R183, ASSUMING KNEE_CURVE (log 6): GC.EVAL answers the reduction (hard knee at KNEE = 0,
else zero up to the knee start, the hard-knee line from the knee end, the configured curve between them) and the gain
`10^(-red/20)`; no state changes. Inside the window the value is that of the instance the configuration names, the
default or another quadratic blend; the line from the knee end on is P4, which R181 gives as the spec's own reading.
-/
def Obligations.GcEvalAnswersReductionAndGain : Prop :=
  ∀ (s : State) (e : NUM), s.status.prep = true →
    let t := s.dyn.thresh
    let w := s.dyn.knee
    let F := s.cfg.num
    let line := F.sub F.one (F.div F.one s.dyn.ratio)
    let half := F.div w (F.ofRat 2 1)
    let x := if F.gt e .zero then F.mul (F.ofRat 20 1) (Config.flog10 F e) else s.cfg.dbFloor
    let u := F.add (F.sub x t) half
    let curve := match s.cfg.kneeCurve with
      | .quadratic => F.div (F.mul line (F.mul u u)) (F.mul (F.ofRat 2 1) w)
      | .other span blend rows => kneeOther F span blend rows x t w s.dyn.ratio
    let red :=
      if F.eq w .zero then F.mul (F.max .zero (F.sub x t)) line
      else if F.le x (F.sub t half) then .zero
      else if F.ge x (F.add t half) then F.mul (F.sub x t) line
      else curve
    let g := Config.fpow F (F.ofRat 10 1) (F.div red.neg (F.ofRat 20 1))
    encode (.gcEval e) = [0x33000000, e.bits] ∧ exec (.gcEval e) s = .next (s.respond [red.bits, g.bits])

/-- 43 R184: DYN.STEP rectifies, links, advances both followers, each from its own previous state alone, computes both
gains, raises grmax to the larger reduction, answers the gain of channel 0 and then of channel 1, and leaves
everything else. AUTOREL_MAP and KNEE_CURVE are assumed as configured (R177, R181, logs 7 and 6). -/
def Obligations.DynStepRunsTheDetector : Prop :=
  ∀ (s : State) (sL sR : NUM), s.status.prep = true →
    let d := s.dyn
    let F := s.cfg.num
    let m := F.max sL.abs sR.abs
    let dL := F.add sL.abs (F.mul d.link (F.sub m sL.abs))
    let dR := F.add sR.abs (F.mul d.link (F.sub m sR.abs))
    let slow (c : Chan) (level : NUM) :=
      if d.auto then F.add (d.ar.get c) (F.mul d.arc (F.sub level (d.ar.get c))) else d.ar.get c
    let rel (c : Chan) (level : NUM) :=
      if d.auto then onePole F s.fs (autoRelMs s.cfg (slow c level)) else d.relc
    let env (c : Chan) (level : NUM) :=
      F.add (d.env.get c)
        (F.mul (if F.gt level (d.env.get c) then d.attc else rel c level) (F.sub level (d.env.get c)))
    let red (e : NUM) := reduction s.cfg d (lin2db s.cfg e)
    let gain (e : NUM) := db2lin F (red e).neg
    let eL := env .ch0 dL
    let eR := env .ch1 dR
    encode (.dynStep sL sR) = [0x34000000, sL.bits, sR.bits] ∧
    exec (.dynStep sL sR) s = .next (State.respond
      { s with dyn :=
        { d with
          ar := { ch0 := slow .ch0 dL, ch1 := slow .ch1 dR }
          env := { ch0 := eL, ch1 := eR }
          grmax := F.max d.grmax (F.max (red eL) (red eR)) } }
      [(gain eL).bits, (gain eR).bits])

/-- 43 R185: DYN.STEPM s is DYN.STEP s, s, except that it answers the gain of channel 0 alone. -/
def Obligations.DynStepmIsTheDualMonoStep : Prop :=
  ∀ (s : State) (x : NUM), s.status.prep = true →
    encode (.dynStepm x) = [0x35000000, x.bits] ∧
    ∃ (u : State) (gL gR : NUM), exec (.dynStep x x) s = .next (u.respond [gL.bits, gR.bits]) ∧
      exec (.dynStepm x) s = .next (u.respond [gL.bits]) ∧ u.ports = s.ports ∧ u.cur = s.cur

/-- 43 R186: DYN.PUB publishes grmax in GR, restarts it at 0.0, and leaves everything else. -/
def Obligations.DynPubPublishesThePeak : Prop :=
  ∀ s : State, s.status.prep = true →
    encode .dynPub = [0x36000000] ∧
    exec .dynPub s = .next
      { s with ro := { s.ro with gr := s.dyn.grmax }, dyn := { s.dyn with grmax := ⟨0⟩ } }

/-- 43 R187 (a): with LINK = 0 and finite samples (in a format that flushes, 93 U3, normal ones or zeros), DYN.STEP
answers the gains, and leaves the envelopes, of ENV.STEP c of the rectified sample followed by GC.EVAL of its
response, on each channel, word for word. -/
def Obligations.UnlinkedDetectorIsTwoMonoDetectors : Prop :=
  ∀ (s : State) (sL sR : NUM), s.status.prep = true → s.dyn.link = .zero →
    deliverable s.cfg.num sL = true → deliverable s.cfg.num sR = true →
    ∃ (t u0 u1 : State) (e0 e1 r0 r1 g0 g1 : NUM),
      exec (.dynStep sL sR) s = .next t ∧ Responds s t [g0.bits, g1.bits] ∧
      exec (.envStep .ch0 sL.abs) s = .next u0 ∧ Responds s u0 [e0.bits] ∧
      exec (.gcEval e0) u0 = .next (u0.respond [r0.bits, g0.bits]) ∧
      exec (.envStep .ch1 sR.abs) s = .next u1 ∧ Responds s u1 [e1.bits] ∧
      exec (.gcEval e1) u1 = .next (u1.respond [r1.bits, g1.bits]) ∧
      t.dyn.env = { ch0 := u0.dyn.env.ch0, ch1 := u1.dyn.env.ch1 } ∧
      t.dyn.ar = { ch0 := u0.dyn.ar.ch0, ch1 := u1.dyn.ar.ch1 }

/-! ### KW, SW, LM.PUB -/

/-- 44 R201, R202: KW.STEP passes its sample through stage 1 and then stage 2 of its channel, answers the second
output, and leaves everything else, the other channel too. -/
def Obligations.KwStepRunsBothStages : Prop :=
  ∀ (s : State) (c : Chan) (x : NUM), s.status.prep = true →
    let d := s.lm.kw.get c
    let r1 := biquadStep s.cfg.num s.lm.kwc1 d.s1 x
    let r2 := biquadStep s.cfg.num s.lm.kwc2 d.s2 r1.1
    encode (.kwStep c x) = [match c with | .ch0 => 0x40000000 | .ch1 => 0x40100000, x.bits] ∧
    exec (.kwStep c x) s = .next (State.respond
      { s with lm := { s.lm with kw := s.lm.kw.set c ({ s1 := r1.2, s2 := r2.2 } : KwDelay) } } [r2.1.bits])

/-- 44 R205: SW.PUSH pushes its value into M, of capacity N400, and S, of capacity N3S, and leaves everything else. -/
def Obligations.SwPushFeedsBothWindows : Prop :=
  ∀ (s : State) (p : NUM), s.status.prep = true →
    encode (.swPush p) = [0x41000000, p.bits] ∧
    exec (.swPush p) s = .next
      { s with lm :=
        { s.lm with winM := windowPush s.cfg.num s.lm.winM s.n400 p, winS := windowPush s.cfg.num s.lm.winS s.n3s p } }

/-- 44 R203: a push into a window that is within its capacity keeps the newest entries in order, as many as fit; a
full window adds the new value and then subtracts the oldest. -/
def Obligations.WindowKeepsTheNewestEntries : Prop :=
  ∀ (F : NumFormat) (w : Window) (cap : U32) (p : NUM), WindowOk cap w → 1 ≤ cap.toNat → cap.toNat + 1 < 2 ^ 32 →
    WindowOk cap (windowPush F w cap p) ∧
    (windowPush F w cap p).q = (w.q ++ [p]).drop (w.q.length + 1 - cap.toNat) ∧
    (w.q.length < cap.toNat → (windowPush F w cap p).sum = F.add w.sum p) ∧
    (∀ v rest, w.q = v :: rest → w.q.length = cap.toNat → (windowPush F w cap p).sum = F.sub (F.add w.sum p) v)

/-- 40 R127, 44 R204, R207: LM.PUB publishes the loudness of each window's mean, the sum over the entries held, that
of an empty window LUFS0; it leaves everything else. -/
def Obligations.LmPubPublishesTheWindowMeans : Prop :=
  ∀ s : State, s.status.prep = true →
    let F := s.cfg.num
    let mean (w : Window) := if w.cnt = 0 then NUM.zero else F.div w.sum (F.toNUM w.cnt)
    let loud (m : NUM) :=
      F.add s.cfg.lufsOfs (F.mul (F.ofRat 10 1) (Config.flog10 F (F.max m s.cfg.msFloor)))
    encode .lmPub = [0x46000000] ∧
    exec .lmPub s = .next
      { s with ro := { s.ro with mom := loud (mean s.lm.winM), st := loud (mean s.lm.winS) } }

/-! ### GI, LA, LM -/

/-- 45 R220, R221: GI.ACC adds to the partial block; at N100 samples the block closes: the partial block restarts,
whether or not the block passes the gate, and its mean is offered. -/
def Obligations.GiAccClosesBlocksAtN100 : Prop :=
  ∀ (s : State) (p : NUM), s.status.prep = true →
    let F := s.cfg.num
    encode (.giAcc p) = [0x42000000, p.bits] ∧
    exec (.giAcc p) s = .next
      (if s.n100 ≤ s.lm.gcnt + 1 then
        offerBlock (F.div (F.add s.lm.gsum p) (F.toNUM (s.lm.gcnt + 1)))
          { s with lm := { s.lm with gsum := ⟨0⟩, gcnt := 0 } }
      else { s with lm := { s.lm with gsum := F.add s.lm.gsum p, gcnt := s.lm.gcnt + 1 } })

/-- 45 R222, R225: LA.OFFER drops a block that is not strictly above ABS_GATE (-70 LUFS), sets BLKFULL for one that
finds the history full, and else stores it, recomputes INTEG, and LRA and DR when more than LRA_MINBLK (10) blocks
exist; nothing else changes. -/
def Obligations.LaOfferGatesStoresAndRecomputes : Prop :=
  ∀ (s : State) (ms : NUM), s.status.prep = true →
    let k := s.cfg
    let l := lufs k ms
    let m := { s.lm with blkMS := s.lm.blkMS ++ [ms], blkLU := s.lm.blkLU ++ [l], n := s.lm.n + 1 }
    encode (.laOffer ms) = [0x43000000, ms.bits] ∧
    exec (.laOffer ms) s = .next
      (if k.num.gt l k.absGate = false then s
      else if s.lm.n < s.cfg.blkCap then
        { s with
          lm := m
          ro := { s.ro with
            integ := integrated k m
            lra := if k.lraMinBlk < m.n then loudnessRange k.num m else s.ro.lra
            dr := if k.lraMinBlk < m.n then k.num.min (loudnessRange k.num m) k.drMax else s.ro.dr } }
      else { s with status := { s.status with blkfull := true } })

/-- 45 R223: the integrated loudness is the two loops over the history by index, pass 1 over all blocks, pass 2 over
those not below the ungated loudness less REL_GATE (10 dB), as the spec writes them. -/
def Obligations.IntegratedIsTheTwoPassLoop : Prop :=
  ∀ (k : Params) (m : Meter), m.n.toNat = m.blkMS.length → m.blkLU.length = m.blkMS.length →
    integrated k m = integratedByIndex k m.blkMS m.blkLU m.blkMS.length

/-- 45 R224: the values ranged over are those of the history in another order, non-decreasing when all are finite, and
both percentile indices fall inside it. -/
def Obligations.RangeReadsTheSortedHistory : Prop :=
  ∀ (F : NumFormat) (m : Meter),
    (sortNums F m.blkLU).Perm m.blkLU ∧
    ((∀ x ∈ m.blkLU, F.isFinite x = true) → (sortNums F m.blkLU).Pairwise fun a b => a.key ≤ b.key) ∧
    (m.n.toNat = m.blkLU.length → 0 < m.n.toNat → m.n.toNat * 95 < 2 ^ 32 →
      loudnessRange F m =
        F.sub ((sortNums F m.blkLU).getD (m.blkLU.length * 95 / 100) .zero)
          ((sortNums F m.blkLU).getD (m.blkLU.length / 10) .zero) ∧
      m.blkLU.length * 95 / 100 < (sortNums F m.blkLU).length ∧ m.blkLU.length / 10 < (sortNums F m.blkLU).length)

/-- 44 R206, 45 R226: LM.STEP runs both K-weighting filters, pushes the mean of the squares into both windows, adds it
to the partial block, answers nothing, and leaves everything else but what closing a block changes. -/
def Obligations.LmStepRunsThePipeline : Prop :=
  ∀ (s : State) (xL xR : NUM), s.status.prep = true →
    let k0 := s.lm.kw.ch0
    let k1 := s.lm.kw.ch1
    let F := s.cfg.num
    let a1 := biquadStep F s.lm.kwc1 k0.s1 xL
    let a2 := biquadStep F s.lm.kwc2 k0.s2 a1.1
    let b1 := biquadStep F s.lm.kwc1 k1.s1 xR
    let b2 := biquadStep F s.lm.kwc2 k1.s2 b1.1
    let p := F.div (F.add (F.mul a2.1 a2.1) (F.mul b2.1 b2.1)) (F.ofRat 2 1)
    encode (.lmStep xL xR) = [0x44000000, xL.bits, xR.bits] ∧
    exec (.lmStep xL xR) s = .next (gateAcc p
      { s with lm :=
        { s.lm with
          kw := { ch0 := { s1 := a1.2, s2 := a2.2 }, ch1 := { s1 := b1.2, s2 := b2.2 } }
          winM := windowPush F s.lm.winM s.n400 p
          winS := windowPush F s.lm.winS s.n3s p } })

/-- 45 R227: LM.STEPM x completes and is LM.STEP x, x. -/
def Obligations.LmStepmIsTheDualMonoStep : Prop :=
  ∀ (s : State) (x : NUM), s.status.prep = true →
    encode (.lmStepm x) = [0x45000000, x.bits] ∧
    ∃ t, exec (.lmStepm x) s = .next t ∧ exec (.lmStep x x) s = .next t

/-! ### Whole-machine frames -/

/-- 10 R51, R34 to R46, 42 R155 (d): a command touches only the state of the unit and channel it names; RESET and
PREPARE the units they clear. -/
def Obligations.CommandsTouchOnlyTheStateTheyName : Prop :=
  ∀ (i : Instr) (s t : State), exec i s = .next t →
    (∀ c, namesBq c i = false → restartsUnit 0 i = false → t.bq.get c = s.bq.get c) ∧
    (∀ c, namesCh c i = false → restartsUnit 1 i = false → t.ch.get c = s.ch.get c) ∧
    (writesDyn i = false → restartsUnit 2 i = false → t.dyn = s.dyn) ∧
    (∀ c, advancesEnv c i = false → restartsUnit 2 i = false →
      t.dyn.env.get c = s.dyn.env.get c ∧ t.dyn.ar.get c = s.dyn.ar.get c) ∧
    (∀ c, advancesKw c i = false → restartsUnit 3 i = false → t.lm.kw.get c = s.lm.kw.get c) ∧
    (feedsWindows i = false → restartsUnit 3 i = false → t.lm.winM = s.lm.winM ∧ t.lm.winS = s.lm.winS) ∧
    (feedsGate i = false → restartsUnit 3 i = false → t.lm.gsum = s.lm.gsum ∧ t.lm.gcnt = s.lm.gcnt) ∧
    (isPrepare i = false →
      t.fs = s.fs ∧ t.blksz = s.blksz ∧ t.n100 = s.n100 ∧ t.n400 = s.n400 ∧ t.n3s = s.n3s ∧
      t.lm.kwc1 = s.lm.kwc1 ∧ t.lm.kwc2 = s.lm.kwc2)

/-- 10 R47, R48, "written by": MOM and ST change by LM.PUB and PREPARE only; INTEG, LRA, DR and the history by a
command that can offer a block, RSTI and PREPARE only; GR by DYN.PUB and PREPARE only. -/
def Obligations.ReadoutsAreWrittenByTheirPublishersOnly : Prop :=
  ∀ (i : Instr) (s t : State), exec i s = .next t → isPrepare i = false →
    (i ≠ .lmPub → t.ro.mom = s.ro.mom ∧ t.ro.st = s.ro.st) ∧
    (feedsHistory i = false → i ≠ .rsti →
      t.ro.integ = s.ro.integ ∧ t.ro.lra = s.ro.lra ∧ t.ro.dr = s.ro.dr ∧
      t.lm.blkMS = s.lm.blkMS ∧ t.lm.blkLU = s.lm.blkLU ∧ t.lm.n = s.lm.n) ∧
    (i ≠ .dynPub → t.ro.gr = s.ro.gr)

/-! ### Arithmetic -/

/-- 00 R9, 60 R272, for every format NUM ranges over (log 1): rounding delivers a nearest magnitude of the format, the
even one of two equally near, and an infinity exactly from the midpoint above the largest finite value on; and for
finite operands a sum, a difference, a product and a quotient are the rounding of the exact result, with its sign (a
zero for a subnormal one where the format flushes), a non-zero dividend over zero an infinity and 0/0 a NaN. -/
def Obligations.RoundingIsToNearestEven : Prop :=
  (∀ (F : NumFormat) (n d : Nat), 0 < d →
    let p := F.roundMag n d
    let off (q : Nat) := ((n : Int) - d * F.unitsOfMag q).natAbs
    (p < F.infMag → ∀ q, q < F.infMag → q ≠ p → off p ≤ off q ∧ (off p = off q → p % 2 = 0)) ∧
    (p = F.infMag ↔ d * ((2 ^ (F.fracBits + 2) - 1) * 2 ^ (2 ^ F.expBits - 4)) ≤ n)) ∧
  ∀ (F : NumFormat) (a b : NUM), F.isFinite a = true → F.isFinite b = true →
    let rounded (n d : Nat) :=
      if F.flush = true ∧ F.roundMag n d < 2 ^ F.fracBits then 0 else F.roundMag n d
    let isRounded (y : NUM) (z : Int) (negZero : Bool) :=
      y.mag = rounded z.natAbs 1 ∧ y.isNeg = if z = 0 then negZero else decide (z < 0)
    let sign := a.isNeg != b.isNeg
    isRounded (F.add a b) (F.toInt a + F.toInt b) (a.isNeg && b.isNeg) ∧
    isRounded (F.sub a b) (F.toInt a - F.toInt b) (a.isNeg && !b.isNeg) ∧
    ((F.mul a b).mag = rounded (F.units a * F.units b) (2 ^ F.unitExp) ∧ (F.mul a b).isNeg = sign) ∧
    (F.units b ≠ 0 →
      (F.div a b).mag = rounded (F.units a * 2 ^ F.unitExp) (F.units b) ∧ (F.div a b).isNeg = sign) ∧
    (F.units b = 0 → F.units a ≠ 0 → (F.div a b).mag = F.infMag ∧ (F.div a b).isNeg = sign) ∧
    (F.units b = 0 → F.units a = 0 → F.isNaN (F.div a b) = true)

/-- 00 R9: `clamp` of finite words: within the bounds the value itself, else the bound; the upper bound wins when the
bounds are equal or crossed. -/
def Obligations.ClampStaysBetweenItsBounds : Prop :=
  ∀ (F : NumFormat) (v lo hi : NUM), F.isFinite v = true → F.isFinite lo = true → F.isFinite hi = true →
    (lo.key < v.key → v.key < hi.key → F.clamp v lo hi = v) ∧
    (v.key ≤ lo.key → lo.key < hi.key → F.clamp v lo hi = lo) ∧
    (hi.key ≤ v.key → F.clamp v lo hi = hi) ∧ (hi.key ≤ lo.key → F.clamp v lo hi = hi)
end

