-- ==== Sys2Proof/Laws/Encode.lean ====
section
/-! SUPPORT. The header's fields read back from a header that was put together from them, within their widths (30 R91). -/

namespace Sys2Proof

theorem headerWord_toNat {opc ch sub imm : Nat} (h1 : opc < 256) (h2 : ch < 16) (h3 : sub < 16) (h4 : imm < 65536) :
    (headerWord opc ch sub imm).toNat = opc * 2 ^ 24 + ch * 2 ^ 20 + sub * 2 ^ 16 + imm := by
  simp only [headerWord, BitVec.toNat_ofNat]
  omega

theorem opcOf_headerWord {opc ch sub imm : Nat} (h1 : opc < 256) (h2 : ch < 16) (h3 : sub < 16) (h4 : imm < 65536) :
    opcOf (headerWord opc ch sub imm) = opc := by
  rw [opcOf, headerWord_toNat h1 h2 h3 h4]
  omega

theorem chOf_headerWord {opc ch sub imm : Nat} (h1 : opc < 256) (h2 : ch < 16) (h3 : sub < 16) (h4 : imm < 65536) :
    chOf (headerWord opc ch sub imm) = ch := by
  rw [chOf, headerWord_toNat h1 h2 h3 h4]
  omega

theorem subOf_headerWord {opc ch sub imm : Nat} (h1 : opc < 256) (h2 : ch < 16) (h3 : sub < 16) (h4 : imm < 65536) :
    subOf (headerWord opc ch sub imm) = sub := by
  rw [subOf, headerWord_toNat h1 h2 h3 h4]
  omega

theorem immOf_headerWord {opc ch sub imm : Nat} (h1 : opc < 256) (h2 : ch < 16) (h3 : sub < 16) (h4 : imm < 65536) :
    immOf (headerWord opc ch sub imm) = imm := by
  rw [immOf, headerWord_toNat h1 h2 h3 h4]
  omega

/-- A header is put together from its own fields. -/
theorem headerWord_of_fields (h : Word) : headerWord (opcOf h) (chOf h) (subOf h) (immOf h) = h := by
  apply BitVec.eq_of_toNat_eq
  have hlt := h.isLt
  rw [headerWord_toNat] <;> simp only [opcOf, chOf, subOf, immOf] <;> omega

theorem Chan.code_lt (c : Chan) : c.code < 2 := by
  cases c <;> decide

theorem FilterType.code_lt (t : FilterType) : t.code < 2 := by
  cases t <;> decide

theorem bit_lt (b : Bool) : bit b < 2 := by
  cases b <;> decide

@[simp] theorem chanOf_code (c : Chan) : chanOf c.code = some c := by
  cases c <;> rfl

end Sys2Proof
end

