-- ==== Sys2Proof/Laws/Num.lean ====
section
/-! SUPPORT. The small facts about NUM: the parts of a pattern put together from a sign and a magnitude, zero, the widths
of a format, binary32 among them, and what rounding and settling deliver. -/

namespace Sys2Proof

/-! ### Patterns -/

/-- A magnitude that fits its field is read back. -/
theorem NUM.ofSignMag_mag (neg : Bool) (p : Nat) (h : p < 2 ^ 31) : (NUM.ofSignMag neg p).mag = p := by
  simp only [NUM.ofSignMag, NUM.mag, BitVec.toNat_ofNat]
  cases neg <;> simp <;> omega

theorem NUM.ofSignMag_isNeg (neg : Bool) (p : Nat) (h : p < 2 ^ 31) : (NUM.ofSignMag neg p).isNeg = neg := by
  simp only [NUM.ofSignMag, NUM.isNeg, BitVec.toNat_ofNat]
  cases neg <;> simp <;> omega

theorem NUM.mag_lt (x : NUM) : x.mag < 2 ^ 31 := Nat.mod_lt _ (by decide)

/-- A word is its sign and its magnitude. -/
theorem NUM.ofSignMag_eta (x : NUM) : NUM.ofSignMag x.isNeg x.mag = x := by
  have h := x.bits.isLt
  obtain ⟨w⟩ := x
  simp only [NUM.ofSignMag, NUM.mag, NUM.isNeg, NUM.mk.injEq] at *
  apply BitVec.eq_of_toNat_eq
  rw [BitVec.toNat_ofNat]
  simp only [decide_eq_true_eq]
  split <;> omega

@[simp] theorem NUM.zero_mag : NUM.zero.mag = 0 := rfl
@[simp] theorem NUM.zero_isNeg : NUM.zero.isNeg = false := rfl
@[simp] theorem NUM.zero_key : NUM.zero.key = 0 := rfl
@[simp] theorem NUM.neg_mag (x : NUM) : x.neg.mag = x.mag := NUM.ofSignMag_mag _ _ x.mag_lt
@[simp] theorem NUM.neg_isNeg (x : NUM) : x.neg.isNeg = !x.isNeg := NUM.ofSignMag_isNeg _ _ x.mag_lt
@[simp] theorem NUM.abs_mag (x : NUM) : x.abs.mag = x.mag := NUM.ofSignMag_mag _ _ x.mag_lt
@[simp] theorem NUM.abs_isNeg (x : NUM) : x.abs.isNeg = false := NUM.ofSignMag_isNeg _ _ x.mag_lt

/-! ### Formats -/

@[simp] theorem NumFormat.binary32_expBits : NumFormat.binary32.expBits = 8 := rfl
@[simp] theorem NumFormat.binary32_fracBits : NumFormat.binary32.fracBits = 23 := rfl
@[simp] theorem NumFormat.binary32_unitExp : NumFormat.binary32.unitExp = 149 := rfl
@[simp] theorem NumFormat.binary32_infMag : NumFormat.binary32.infMag = 0x7F800000 := rfl

/-- The sign, the exponent and the fraction fill the word. -/
theorem NumFormat.expBits_add_fracBits (F : NumFormat) : F.expBits + F.fracBits = 31 := by
  have h := F.expCode.isLt
  unfold NumFormat.expBits NumFormat.fracBits
  omega

/-- An infinity's pattern fits the word. -/
theorem NumFormat.infMag_lt (F : NumFormat) : F.infMag < 2 ^ 31 := by
  rw [← F.expBits_add_fracBits, Nat.pow_add]
  unfold NumFormat.infMag
  exact Nat.mul_lt_mul_of_pos_right (Nat.sub_lt (Nat.two_pow_pos _) Nat.one_pos) (Nat.two_pow_pos _)

theorem NumFormat.infMag_pos (F : NumFormat) : 0 < F.infMag := by
  refine Nat.mul_pos (Nat.sub_pos_of_lt ?_) (Nat.two_pow_pos _)
  exact Nat.one_lt_two_pow (by unfold NumFormat.expBits; omega)

@[simp] theorem NumFormat.isFinite_zero (F : NumFormat) : F.isFinite .zero = true :=
  decide_eq_true F.infMag_pos

@[simp] theorem NumFormat.units_zero (F : NumFormat) : F.units .zero = 0 := if_pos (Nat.two_pow_pos _)

/-! ### What is delivered -/

/-- An invalid operation delivers a NaN. -/
theorem NumFormat.invalid_isNaN (F : NumFormat) (op : NumOp) (a b : NUM) : F.isNaN (F.invalid op a b) = true := by
  have hf : 0 < 2 ^ F.fracBits - 1 := by
    have h := F.expCode.isLt
    exact Nat.sub_pos_of_lt (Nat.one_lt_two_pow (by unfold NumFormat.fracBits; omega))
  have hm := Nat.mod_lt (Config.openNaN F op a b).mag hf
  have hi : F.infMag + 2 ^ F.fracBits = 2 ^ 31 := by
    rw [← F.expBits_add_fracBits, Nat.pow_add]
    unfold NumFormat.infMag
    rw [Nat.sub_mul, Nat.one_mul, Nat.sub_add_cancel (Nat.le_mul_of_pos_left _ (Nat.two_pow_pos _))]
  unfold NumFormat.isNaN NumFormat.invalid
  rw [NUM.ofSignMag_mag _ _ (by omega)]
  exact decide_eq_true (by omega)

theorem NumFormat.roundMag_le (F : NumFormat) (n d : Nat) : F.roundMag n d ≤ F.infMag := Nat.min_le_right _ _

theorem NumFormat.settle_le (F : NumFormat) (p : Nat) : F.settle p ≤ p := by
  unfold NumFormat.settle
  split
  · exact Nat.zero_le _
  · exact Nat.le_refl _

/-- A format that does not flush delivers the rounded magnitude. -/
theorem NumFormat.settle_of_not_flush {F : NumFormat} (h : F.flush = false) (p : Nat) : F.settle p = p := by
  simp [NumFormat.settle, h]

/-- A normal magnitude is delivered as it is. -/
theorem NumFormat.settle_of_normal (F : NumFormat) {p : Nat} (h : 2 ^ F.fracBits ≤ p) : F.settle p = p := by
  simp [NumFormat.settle, Nat.not_lt.mpr h]

/-- Everything an operation delivers: the sign it was given and the settled magnitude. -/
theorem NumFormat.deliver_spec (F : NumFormat) (neg : Bool) (n d : Nat) :
    (F.deliver neg n d).isNeg = neg ∧ (F.deliver neg n d).mag = F.settle (F.roundMag n d) := by
  have h : F.settle (F.roundMag n d) < 2 ^ 31 :=
    Nat.lt_of_le_of_lt (Nat.le_trans (F.settle_le _) (F.roundMag_le _ _)) F.infMag_lt
  exact ⟨NUM.ofSignMag_isNeg _ _ h, NUM.ofSignMag_mag _ _ h⟩

/-! ### Comparison and clamping -/

/-- A value clamped to bounds in order is finite and between them. -/
theorem NumFormat.clamp_between (F : NumFormat) {v lo hi : NUM} (hv : F.isFinite v = true) (hl : F.isFinite lo = true)
    (hh : F.isFinite hi = true) (h : lo.key ≤ hi.key) :
    F.isFinite (F.clamp v lo hi) = true ∧ lo.key ≤ (F.clamp v lo hi).key ∧ (F.clamp v lo hi).key ≤ hi.key := by
  have hmax : F.max v lo = if lo.key < v.key then v else lo := by
    simp [NumFormat.max, NumFormat.gt, NumFormat.test, NumFormat.finite2, hv, hl]
  have hmf : F.isFinite (F.max v lo) = true := by
    rw [hmax]
    split <;> assumption
  have hmin : F.clamp v lo hi = if (F.max v lo).key < hi.key then F.max v lo else hi := by
    simp [NumFormat.clamp, NumFormat.min, NumFormat.lt, NumFormat.test, NumFormat.finite2, hmf, hh]
  have hlo : lo.key ≤ (F.max v lo).key := by
    rw [hmax]
    split <;> omega
  rw [hmin]
  split
  · exact ⟨hmf, hlo, by omega⟩
  · exact ⟨hh, h, Int.le_refl _⟩

end Sys2Proof
end

