-- ==== Sys2Proof/Laws/State.lean ====
section
/-! SUPPORT. One lemma per field per update, true by rfl, so that no proof unfolds a record update; and the reads of the
shapes the state is built from. -/

namespace Sys2Proof

/-! ### Shapes -/

@[simp] theorem Duo.get_set_same {α : Type} (d : Duo α) (c : Chan) (v : α) : (d.set c v).get c = v := by
  cases c <;> rfl

theorem Duo.get_set_other {α : Type} (d : Duo α) {c c' : Chan} (v : α) (h : c' ≠ c) :
    (d.set c v).get c' = d.get c' := by
  cases c <;> cases c' <;> first | rfl | exact absurd rfl h

@[simp] theorem Duo.get_map {α β : Type} (f : α → β) (d : Duo α) (c : Chan) : (d.map f).get c = f (d.get c) := by
  cases c <;> rfl

@[simp] theorem Duo.get_both {α : Type} (v : α) (c : Chan) : (Duo.both v).get c = v := by
  cases c <;> rfl

@[simp] theorem Duo.set_get {α : Type} (d : Duo α) (c : Chan) : d.set c (d.get c) = d := by
  cases c <;> rfl

@[simp] theorem Duo.set_set {α : Type} (d : Duo α) (c : Chan) (v w : α) : (d.set c v).set c w = d.set c w := by
  cases c <;> rfl

@[simp] theorem Four.get_map {α β : Type} (f : α → β) (q : Four α) (i : Fin 4) :
    (q.map f).get i = f (q.get i) := by
  match i with
  | 0 => rfl
  | 1 => rfl
  | 2 => rfl
  | 3 => rfl

@[simp] theorem Four.get_all {α : Type} (v : α) (i : Fin 4) : (Four.all v).get i = v := by
  match i with
  | 0 => rfl
  | 1 => rfl
  | 2 => rfl
  | 3 => rfl

namespace Machine

@[simp] theorem Ports.get_set_same (p : Ports) (a : Agent) (v : Port) : (p.set a v).get a = v := by
  cases a <;> rfl

theorem Ports.get_set_other (p : Ports) {a b : Agent} (v : Port) (h : b ≠ a) : (p.set a v).get b = p.get b := by
  cases a <;> cases b <;> first | rfl | exact absurd rfl h

@[simp] theorem Ports.set_set (p : Ports) (a : Agent) (v w : Port) : (p.set a v).set a w = p.set a w := by
  cases a <;> rfl

@[simp] theorem Ports.set_get (p : Ports) (a : Agent) : p.set a (p.get a) = p := by
  cases a <;> rfl

/-! ### Fields an update leaves -/

@[simp] theorem State.respond_status (s : State) (ws : List Word) : (s.respond ws).status = s.status := rfl
@[simp] theorem State.respond_fs (s : State) (ws : List Word) : (s.respond ws).fs = s.fs := rfl
@[simp] theorem State.respond_blksz (s : State) (ws : List Word) : (s.respond ws).blksz = s.blksz := rfl
@[simp] theorem State.respond_n100 (s : State) (ws : List Word) : (s.respond ws).n100 = s.n100 := rfl
@[simp] theorem State.respond_n400 (s : State) (ws : List Word) : (s.respond ws).n400 = s.n400 := rfl
@[simp] theorem State.respond_n3s (s : State) (ws : List Word) : (s.respond ws).n3s = s.n3s := rfl
@[simp] theorem State.respond_bq (s : State) (ws : List Word) : (s.respond ws).bq = s.bq := rfl
@[simp] theorem State.respond_ch (s : State) (ws : List Word) : (s.respond ws).ch = s.ch := rfl
@[simp] theorem State.respond_dyn (s : State) (ws : List Word) : (s.respond ws).dyn = s.dyn := rfl
@[simp] theorem State.respond_lm (s : State) (ws : List Word) : (s.respond ws).lm = s.lm := rfl
@[simp] theorem State.respond_ro (s : State) (ws : List Word) : (s.respond ws).ro = s.ro := rfl
@[simp] theorem State.respond_cur (s : State) (ws : List Word) : (s.respond ws).cur = s.cur := rfl
@[simp] theorem State.respond_turn (s : State) (ws : List Word) : (s.respond ws).turn = s.turn := rfl
@[simp] theorem State.respond_cfg (s : State) (ws : List Word) : (s.respond ws).cfg = s.cfg := rfl

@[simp] theorem State.present_status (s : State) (a : Agent) (ws : List Word) : (s.present a ws).status = s.status := rfl
@[simp] theorem State.present_fs (s : State) (a : Agent) (ws : List Word) : (s.present a ws).fs = s.fs := rfl
@[simp] theorem State.present_blksz (s : State) (a : Agent) (ws : List Word) : (s.present a ws).blksz = s.blksz := rfl
@[simp] theorem State.present_n100 (s : State) (a : Agent) (ws : List Word) : (s.present a ws).n100 = s.n100 := rfl
@[simp] theorem State.present_n400 (s : State) (a : Agent) (ws : List Word) : (s.present a ws).n400 = s.n400 := rfl
@[simp] theorem State.present_n3s (s : State) (a : Agent) (ws : List Word) : (s.present a ws).n3s = s.n3s := rfl
@[simp] theorem State.present_bq (s : State) (a : Agent) (ws : List Word) : (s.present a ws).bq = s.bq := rfl
@[simp] theorem State.present_ch (s : State) (a : Agent) (ws : List Word) : (s.present a ws).ch = s.ch := rfl
@[simp] theorem State.present_dyn (s : State) (a : Agent) (ws : List Word) : (s.present a ws).dyn = s.dyn := rfl
@[simp] theorem State.present_lm (s : State) (a : Agent) (ws : List Word) : (s.present a ws).lm = s.lm := rfl
@[simp] theorem State.present_ro (s : State) (a : Agent) (ws : List Word) : (s.present a ws).ro = s.ro := rfl
@[simp] theorem State.present_cur (s : State) (a : Agent) (ws : List Word) : (s.present a ws).cur = s.cur := rfl
@[simp] theorem State.present_turn (s : State) (a : Agent) (ws : List Word) : (s.present a ws).turn = s.turn := rfl
@[simp] theorem State.present_cfg (s : State) (a : Agent) (ws : List Word) : (s.present a ws).cfg = s.cfg := rfl

@[simp] theorem State.drain_status (s : State) (a : Agent) (k : Nat) : (s.drain a k).status = s.status := rfl
@[simp] theorem State.drain_fs (s : State) (a : Agent) (k : Nat) : (s.drain a k).fs = s.fs := rfl
@[simp] theorem State.drain_blksz (s : State) (a : Agent) (k : Nat) : (s.drain a k).blksz = s.blksz := rfl
@[simp] theorem State.drain_n100 (s : State) (a : Agent) (k : Nat) : (s.drain a k).n100 = s.n100 := rfl
@[simp] theorem State.drain_n400 (s : State) (a : Agent) (k : Nat) : (s.drain a k).n400 = s.n400 := rfl
@[simp] theorem State.drain_n3s (s : State) (a : Agent) (k : Nat) : (s.drain a k).n3s = s.n3s := rfl
@[simp] theorem State.drain_bq (s : State) (a : Agent) (k : Nat) : (s.drain a k).bq = s.bq := rfl
@[simp] theorem State.drain_ch (s : State) (a : Agent) (k : Nat) : (s.drain a k).ch = s.ch := rfl
@[simp] theorem State.drain_dyn (s : State) (a : Agent) (k : Nat) : (s.drain a k).dyn = s.dyn := rfl
@[simp] theorem State.drain_lm (s : State) (a : Agent) (k : Nat) : (s.drain a k).lm = s.lm := rfl
@[simp] theorem State.drain_ro (s : State) (a : Agent) (k : Nat) : (s.drain a k).ro = s.ro := rfl
@[simp] theorem State.drain_cur (s : State) (a : Agent) (k : Nat) : (s.drain a k).cur = s.cur := rfl
@[simp] theorem State.drain_turn (s : State) (a : Agent) (k : Nat) : (s.drain a k).turn = s.turn := rfl
@[simp] theorem State.drain_cfg (s : State) (a : Agent) (k : Nat) : (s.drain a k).cfg = s.cfg := rfl

@[simp] theorem State.accept_status (s : State) (a : Agent) (rest : List Word) : (s.accept a rest).status = s.status := rfl
@[simp] theorem State.accept_fs (s : State) (a : Agent) (rest : List Word) : (s.accept a rest).fs = s.fs := rfl
@[simp] theorem State.accept_blksz (s : State) (a : Agent) (rest : List Word) : (s.accept a rest).blksz = s.blksz := rfl
@[simp] theorem State.accept_n100 (s : State) (a : Agent) (rest : List Word) : (s.accept a rest).n100 = s.n100 := rfl
@[simp] theorem State.accept_n400 (s : State) (a : Agent) (rest : List Word) : (s.accept a rest).n400 = s.n400 := rfl
@[simp] theorem State.accept_n3s (s : State) (a : Agent) (rest : List Word) : (s.accept a rest).n3s = s.n3s := rfl
@[simp] theorem State.accept_bq (s : State) (a : Agent) (rest : List Word) : (s.accept a rest).bq = s.bq := rfl
@[simp] theorem State.accept_ch (s : State) (a : Agent) (rest : List Word) : (s.accept a rest).ch = s.ch := rfl
@[simp] theorem State.accept_dyn (s : State) (a : Agent) (rest : List Word) : (s.accept a rest).dyn = s.dyn := rfl
@[simp] theorem State.accept_lm (s : State) (a : Agent) (rest : List Word) : (s.accept a rest).lm = s.lm := rfl
@[simp] theorem State.accept_ro (s : State) (a : Agent) (rest : List Word) : (s.accept a rest).ro = s.ro := rfl
@[simp] theorem State.accept_cfg (s : State) (a : Agent) (rest : List Word) : (s.accept a rest).cfg = s.cfg := rfl

@[simp] theorem State.onlyPresent_status (s : State) (a : Agent) (ws : List Word) : (s.onlyPresent a ws).status = s.status := rfl
@[simp] theorem State.onlyPresent_fs (s : State) (a : Agent) (ws : List Word) : (s.onlyPresent a ws).fs = s.fs := rfl
@[simp] theorem State.onlyPresent_blksz (s : State) (a : Agent) (ws : List Word) : (s.onlyPresent a ws).blksz = s.blksz := rfl
@[simp] theorem State.onlyPresent_n100 (s : State) (a : Agent) (ws : List Word) : (s.onlyPresent a ws).n100 = s.n100 := rfl
@[simp] theorem State.onlyPresent_n400 (s : State) (a : Agent) (ws : List Word) : (s.onlyPresent a ws).n400 = s.n400 := rfl
@[simp] theorem State.onlyPresent_n3s (s : State) (a : Agent) (ws : List Word) : (s.onlyPresent a ws).n3s = s.n3s := rfl
@[simp] theorem State.onlyPresent_bq (s : State) (a : Agent) (ws : List Word) : (s.onlyPresent a ws).bq = s.bq := rfl
@[simp] theorem State.onlyPresent_ch (s : State) (a : Agent) (ws : List Word) : (s.onlyPresent a ws).ch = s.ch := rfl
@[simp] theorem State.onlyPresent_dyn (s : State) (a : Agent) (ws : List Word) : (s.onlyPresent a ws).dyn = s.dyn := rfl
@[simp] theorem State.onlyPresent_lm (s : State) (a : Agent) (ws : List Word) : (s.onlyPresent a ws).lm = s.lm := rfl
@[simp] theorem State.onlyPresent_ro (s : State) (a : Agent) (ws : List Word) : (s.onlyPresent a ws).ro = s.ro := rfl
@[simp] theorem State.onlyPresent_cur (s : State) (a : Agent) (ws : List Word) : (s.onlyPresent a ws).cur = s.cur := rfl
@[simp] theorem State.onlyPresent_turn (s : State) (a : Agent) (ws : List Word) : (s.onlyPresent a ws).turn = s.turn := rfl
@[simp] theorem State.onlyPresent_cfg (s : State) (a : Agent) (ws : List Word) : (s.onlyPresent a ws).cfg = s.cfg := rfl

@[simp] theorem State.setIll_fs (s : State) : (s.setIll).fs = s.fs := rfl
@[simp] theorem State.setIll_blksz (s : State) : (s.setIll).blksz = s.blksz := rfl
@[simp] theorem State.setIll_n100 (s : State) : (s.setIll).n100 = s.n100 := rfl
@[simp] theorem State.setIll_n400 (s : State) : (s.setIll).n400 = s.n400 := rfl
@[simp] theorem State.setIll_n3s (s : State) : (s.setIll).n3s = s.n3s := rfl
@[simp] theorem State.setIll_bq (s : State) : (s.setIll).bq = s.bq := rfl
@[simp] theorem State.setIll_ch (s : State) : (s.setIll).ch = s.ch := rfl
@[simp] theorem State.setIll_dyn (s : State) : (s.setIll).dyn = s.dyn := rfl
@[simp] theorem State.setIll_lm (s : State) : (s.setIll).lm = s.lm := rfl
@[simp] theorem State.setIll_ro (s : State) : (s.setIll).ro = s.ro := rfl
@[simp] theorem State.setIll_ports (s : State) : (s.setIll).ports = s.ports := rfl
@[simp] theorem State.setIll_cur (s : State) : (s.setIll).cur = s.cur := rfl
@[simp] theorem State.setIll_turn (s : State) : (s.setIll).turn = s.turn := rfl
@[simp] theorem State.setIll_cfg (s : State) : (s.setIll).cfg = s.cfg := rfl

@[simp] theorem State.setPrep_fs (s : State) : (s.setPrep).fs = s.fs := rfl
@[simp] theorem State.setPrep_blksz (s : State) : (s.setPrep).blksz = s.blksz := rfl
@[simp] theorem State.setPrep_n100 (s : State) : (s.setPrep).n100 = s.n100 := rfl
@[simp] theorem State.setPrep_n400 (s : State) : (s.setPrep).n400 = s.n400 := rfl
@[simp] theorem State.setPrep_n3s (s : State) : (s.setPrep).n3s = s.n3s := rfl
@[simp] theorem State.setPrep_bq (s : State) : (s.setPrep).bq = s.bq := rfl
@[simp] theorem State.setPrep_ch (s : State) : (s.setPrep).ch = s.ch := rfl
@[simp] theorem State.setPrep_dyn (s : State) : (s.setPrep).dyn = s.dyn := rfl
@[simp] theorem State.setPrep_lm (s : State) : (s.setPrep).lm = s.lm := rfl
@[simp] theorem State.setPrep_ro (s : State) : (s.setPrep).ro = s.ro := rfl
@[simp] theorem State.setPrep_ports (s : State) : (s.setPrep).ports = s.ports := rfl
@[simp] theorem State.setPrep_cur (s : State) : (s.setPrep).cur = s.cur := rfl
@[simp] theorem State.setPrep_turn (s : State) : (s.setPrep).turn = s.turn := rfl
@[simp] theorem State.setPrep_cfg (s : State) : (s.setPrep).cfg = s.cfg := rfl

@[simp] theorem State.setBlkfull_fs (b : Bool) (s : State) : (s.setBlkfull b).fs = s.fs := rfl
@[simp] theorem State.setBlkfull_blksz (b : Bool) (s : State) : (s.setBlkfull b).blksz = s.blksz := rfl
@[simp] theorem State.setBlkfull_n100 (b : Bool) (s : State) : (s.setBlkfull b).n100 = s.n100 := rfl
@[simp] theorem State.setBlkfull_n400 (b : Bool) (s : State) : (s.setBlkfull b).n400 = s.n400 := rfl
@[simp] theorem State.setBlkfull_n3s (b : Bool) (s : State) : (s.setBlkfull b).n3s = s.n3s := rfl
@[simp] theorem State.setBlkfull_bq (b : Bool) (s : State) : (s.setBlkfull b).bq = s.bq := rfl
@[simp] theorem State.setBlkfull_ch (b : Bool) (s : State) : (s.setBlkfull b).ch = s.ch := rfl
@[simp] theorem State.setBlkfull_dyn (b : Bool) (s : State) : (s.setBlkfull b).dyn = s.dyn := rfl
@[simp] theorem State.setBlkfull_lm (b : Bool) (s : State) : (s.setBlkfull b).lm = s.lm := rfl
@[simp] theorem State.setBlkfull_ro (b : Bool) (s : State) : (s.setBlkfull b).ro = s.ro := rfl
@[simp] theorem State.setBlkfull_ports (b : Bool) (s : State) : (s.setBlkfull b).ports = s.ports := rfl
@[simp] theorem State.setBlkfull_cur (b : Bool) (s : State) : (s.setBlkfull b).cur = s.cur := rfl
@[simp] theorem State.setBlkfull_turn (b : Bool) (s : State) : (s.setBlkfull b).turn = s.turn := rfl
@[simp] theorem State.setBlkfull_cfg (b : Bool) (s : State) : (s.setBlkfull b).cfg = s.cfg := rfl

/-! ### Fields an update writes -/

@[simp] theorem State.setIll_status (s : State) : s.setIll.status = { s.status with ill := true } := rfl

@[simp] theorem State.setPrep_status (s : State) : s.setPrep.status = { s.status with prep := true } := rfl

@[simp] theorem State.setBlkfull_status (b : Bool) (s : State) :
    (s.setBlkfull b).status = { s.status with blkfull := b } := rfl

@[simp] theorem State.accept_cur (s : State) (a : Agent) (rest : List Word) : (s.accept a rest).cur = a := rfl

@[simp] theorem State.accept_turn (s : State) (a : Agent) (rest : List Word) :
    (s.accept a rest).turn = s.turn + 1 := rfl

@[simp] theorem State.accept_ports_get (s : State) (a : Agent) (rest : List Word) :
    (s.accept a rest).ports.get a = { cmd := rest, resp := (s.ports.get a).resp } := by
  cases a <;> rfl

theorem State.accept_ports_other (s : State) {a b : Agent} (rest : List Word) (h : b ≠ a) :
    (s.accept a rest).ports.get b = s.ports.get b := Ports.get_set_other _ _ h

@[simp] theorem State.respond_ports_get (s : State) (ws : List Word) :
    (s.respond ws).ports.get s.cur =
      { cmd := (s.ports.get s.cur).cmd, resp := (s.ports.get s.cur).resp ++ ws } := by
  simp [State.respond]

theorem State.respond_ports_other (s : State) (ws : List Word) {b : Agent} (h : b ≠ s.cur) :
    (s.respond ws).ports.get b = s.ports.get b := Ports.get_set_other _ _ h

/-- Answering nothing changes nothing. -/
@[simp] theorem State.respond_nil (s : State) : s.respond [] = s := by
  have h : s.ports.set s.cur { cmd := (s.ports.get s.cur).cmd, resp := (s.ports.get s.cur).resp } = s.ports :=
    Ports.set_get _ _
  simp only [State.respond, List.append_nil, h]

/-- Two answers in a row are one. -/
theorem State.respond_respond (s : State) (ws vs : List Word) :
    (s.respond ws).respond vs = s.respond (ws ++ vs) := by
  simp [State.respond, List.append_assoc]

end Machine

end Sys2Proof
end

