-- ==== Sys2Proof/Laws/Ops.lean ====
section
/-! SUPPORT. For each shared operation, once, everything it can do. -/

namespace Sys2Proof

/-- A stream holds a complete packet exactly when it is a header, as many operands as its OPC calls for, and a rest. -/
theorem splitPacket_eq_some {ws : List Word} {h : Word} {ops rest : List Word} :
    splitPacket ws = some (h, ops, rest) ↔ ws = h :: (ops ++ rest) ∧ ops.length = nops (opcOf h) := by
  cases ws with
  | nil => simp [splitPacket]
  | cons x xs =>
    simp only [splitPacket, List.cons.injEq]
    constructor
    · intro hs
      split at hs
      · rename_i hle
        simp only [Option.some.injEq, Prod.mk.injEq] at hs
        obtain ⟨rfl, rfl, rfl⟩ := hs
        exact ⟨⟨rfl, (List.take_append_drop _ _).symm⟩, by simp [hle]⟩
      · cases hs
    · rintro ⟨⟨rfl, rfl⟩, hl⟩
      simp [← hl]

namespace Machine

/-! ### Legality and discard -/

theorem whenPrepared_of_prep {k : Nat} {s t : State} (h : s.status.prep = true) :
    whenPrepared k s t = .next t := by
  simp [whenPrepared, h]

theorem whenPrepared_of_unprepared {k : Nat} {s t : State} (h : s.status.prep = false) :
    whenPrepared k s t = .next (discard k s) := by
  simp [whenPrepared, h]

/-- A command under the PREP test has its effect or is discarded. -/
theorem whenPrepared_eq_next {k : Nat} {s t u : State} (h : whenPrepared k s t = .next u) :
    (s.status.prep = true ∧ u = t) ∨ (s.status.prep = false ∧ u = discard k s) := by
  cases hp : s.status.prep <;> simp [whenPrepared, hp] at h <;> simp [h]

@[simp] theorem discard_status (k : Nat) (s : State) : (discard k s).status = { s.status with ill := true } := rfl
@[simp] theorem discard_fs (k : Nat) (s : State) : (discard k s).fs = s.fs := rfl
@[simp] theorem discard_blksz (k : Nat) (s : State) : (discard k s).blksz = s.blksz := rfl
@[simp] theorem discard_n100 (k : Nat) (s : State) : (discard k s).n100 = s.n100 := rfl
@[simp] theorem discard_n400 (k : Nat) (s : State) : (discard k s).n400 = s.n400 := rfl
@[simp] theorem discard_n3s (k : Nat) (s : State) : (discard k s).n3s = s.n3s := rfl
@[simp] theorem discard_bq (k : Nat) (s : State) : (discard k s).bq = s.bq := rfl
@[simp] theorem discard_ch (k : Nat) (s : State) : (discard k s).ch = s.ch := rfl
@[simp] theorem discard_dyn (k : Nat) (s : State) : (discard k s).dyn = s.dyn := rfl
@[simp] theorem discard_lm (k : Nat) (s : State) : (discard k s).lm = s.lm := rfl
@[simp] theorem discard_ro (k : Nat) (s : State) : (discard k s).ro = s.ro := rfl
@[simp] theorem discard_cur (k : Nat) (s : State) : (discard k s).cur = s.cur := rfl
@[simp] theorem discard_turn (k : Nat) (s : State) : (discard k s).turn = s.turn := rfl
@[simp] theorem discard_cfg (k : Nat) (s : State) : (discard k s).cfg = s.cfg := rfl

/-! ### Register reads across the port operations -/

@[simp] theorem regRead_respond (s : State) (ws : List Word) (a : Nat) :
    (s.respond ws).regRead a = s.regRead a := rfl

@[simp] theorem regRead_accept (s : State) (a : Agent) (rest : List Word) (r : Nat) :
    (s.accept a rest).regRead r = s.regRead r := rfl

@[simp] theorem regRead_present (s : State) (a : Agent) (ws : List Word) (r : Nat) :
    (s.present a ws).regRead r = s.regRead r := rfl

@[simp] theorem regRead_drain (s : State) (a : Agent) (k r : Nat) : (s.drain a k).regRead r = s.regRead r := rfl

/-- ILL shows in STATUS alone. -/
theorem regRead_setIll (s : State) {a : Nat} (h : a ≠ 1) : s.setIll.regRead a = s.regRead a := by
  unfold State.regRead
  split
  · unfold sysReg
    split <;> first | rfl | exact absurd rfl h
  · rfl

/-! ### Serving -/

theorem mem_readyAgents {s : State} {a : Agent} :
    a ∈ s.readyAgents ↔ (s.ports.get a).ready s.respDepth = true := by
  cases a <;> simp [State.readyAgents]

/-- The arbiter serves one of the ports that can be served. -/
theorem served_mem_readyAgents {s : State} {a : Agent} (h : s.served = some a) : a ∈ s.readyAgents := by
  unfold State.served at h
  split at h
  · cases h
  · rename_i b hb
    cases h
    simp [hb]
  · rename_i x y more hb
    simp only [Option.some.injEq] at h
    rw [hb, ← h]
    have hlt : Config.arbiterChoice s.turn % (x :: y :: more).length < (x :: y :: more).length :=
      Nat.mod_lt _ (by simp)
    rw [List.getD_eq_getElem _ _ hlt]
    exact List.getElem_mem hlt

/-- No port is served exactly when none can be. -/
theorem served_eq_none {s : State} : s.served = none ↔ s.readyAgents = [] := by
  unfold State.served
  split <;> simp_all

/-- What a fetch answers: a port that can be served, its packet, and the state with that packet consumed. -/
theorem fetch_eq_some {s t : State} {h : Word} {ops : List Word} (hf : s.fetch = some (h, ops, t)) :
    ∃ a rest, s.served = some a ∧ (s.ports.get a).cmd = h :: (ops ++ rest) ∧ ops.length = nops (opcOf h) ∧
      (s.ports.get a).resp.length + respWords (opcOf h) ≤ s.respDepth ∧ t = s.accept a rest := by
  unfold State.fetch at hf
  cases ha : s.served with
  | none => simp [ha] at hf
  | some a =>
    have hr := mem_readyAgents.1 (served_mem_readyAgents ha)
    simp only [ha] at hf
    cases hp : splitPacket (s.ports.get a).cmd with
    | none => simp [hp] at hf
    | some p =>
      obtain ⟨h', ops', rest⟩ := p
      simp only [hp, Option.some.injEq, Prod.mk.injEq] at hf
      obtain ⟨rfl, rfl, rfl⟩ := hf
      obtain ⟨hc, hl⟩ := splitPacket_eq_some.1 hp
      refine ⟨a, rest, rfl, hc, hl, ?_, rfl⟩
      simpa [Port.ready, hp] using hr

/-- A fetch answers nothing exactly when no port can be served. -/
theorem fetch_eq_none {s : State} : s.fetch = none ↔ s.readyAgents = [] := by
  rw [← served_eq_none]
  unfold State.fetch
  cases ha : s.served with
  | none => simp
  | some a =>
    have hr := mem_readyAgents.1 (served_mem_readyAgents ha)
    cases hp : splitPacket (s.ports.get a).cmd with
    | none => simp [Port.ready, hp] at hr
    | some p => simp [hp]

/-- The implementation of two channels has every command. -/
theorem hasCommand_of_two {k : Params} (h : k.nch = .two) (i : Instr) : hasCommand k i = true := by
  simp [hasCommand, h]

/-- A step waits, runs a decoded command, or discards a header that is illegal or names a channel the implementation
lacks. -/
theorem step_cases (s : State) :
    (s.fetch = none ∧ step s = .next s) ∨
    (∃ h ops t i, s.fetch = some (h, ops, t) ∧ decodePacket h ops = some i ∧ hasCommand t.cfg i = true ∧
      step s = exec i t) ∨
    (∃ h ops t, s.fetch = some (h, ops, t) ∧
      (∀ i, decodePacket h ops = some i → hasCommand t.cfg i = false) ∧
      step s = .next (discard (respWords (opcOf h)) t)) := by
  unfold step
  cases hf : s.fetch with
  | none => exact .inl ⟨rfl, rfl⟩
  | some p =>
    obtain ⟨h, ops, t⟩ := p
    right
    cases hd : decodePacket h ops with
    | some i =>
      cases hc : hasCommand t.cfg i with
      | true => exact .inl ⟨h, ops, t, i, rfl, hd, hc, by simp [runPacket, hd, hc]⟩
      | false =>
        refine .inr ⟨h, ops, t, rfl, ?_, by simp [runPacket, hd, hc, rejectHeader]⟩
        intro j hj
        obtain rfl : i = j := by simpa [hd] using hj
        exact hc
    | none => exact .inr ⟨h, ops, t, rfl, by simp [hd], by simp [runPacket, hd, rejectHeader]⟩

end Machine

end Sys2Proof
end

