-- ==== Sys2Proof/Laws/PerInstr.lean ====
section
/-! SUPPORT. Statements about every command as syntax, one lemma per constructor. -/

namespace Sys2Proof.Laws

/-- A command's packet is a header and as many operand words as the header's OPC calls for (30 R90, R95, R98). -/
def PacketLength.Statement (i : Instr) : Prop :=
  ∃ h ops, encode i = h :: ops ∧ ops.length = nops (opcOf h)

namespace PacketLength

/-- A packet whose header was put together from fields within their widths. -/
theorem of_header {i : Instr} {opc ch sub imm : Nat} {ops : List Word} (he : encode i = headerWord opc ch sub imm :: ops)
    (h1 : opc < 256) (h2 : ch < 16) (h3 : sub < 16) (h4 : imm < 65536) (hl : ops.length = nops opc) : Statement i :=
  ⟨_, _, he, by rw [opcOf_headerWord h1 h2 h3 h4]; exact hl⟩

theorem nop : Statement (.nop) :=
  of_header rfl (by decide) (by decide) (by decide) (by decide) rfl

theorem prepare (fs : NUM) (bs : U32) : Statement (.prepare fs bs) :=
  of_header rfl (by decide) (by decide) (by decide) (by decide) rfl

theorem reset (units : Nat) : Statement (.reset units) :=
  of_header rfl (by decide) (by decide) (by omega) (by omega) rfl

theorem rsti : Statement (.rsti) :=
  of_header rfl (by decide) (by decide) (by decide) (by decide) rfl

theorem rdr (addr : Nat) : Statement (.rdr addr) :=
  of_header rfl (by decide) (by decide) (by omega) (by omega) rfl

theorem bqSetc (c : Chan) (b0 b1 b2 a1 a2 : NUM) : Statement (.bqSetc c b0 b1 b2 a1 a2) := by
  have h := c.code_lt
  exact of_header rfl (by decide) (by omega) (by decide) (by decide) rfl

theorem bqStep (c : Chan) (x : NUM) : Statement (.bqStep c x) := by
  have h := c.code_lt
  exact of_header rfl (by decide) (by omega) (by decide) (by decide) rfl

theorem bqRst (c : Chan) : Statement (.bqRst c) := by
  have h := c.code_lt
  exact of_header rfl (by decide) (by omega) (by decide) (by decide) rfl

theorem chSetp (c : Chan) (ty : FilterType) (orderReq : Nat) (freq : NUM) : Statement (.chSetp c ty orderReq freq) := by
  have h1 := c.code_lt
  have h2 := ty.code_lt
  exact of_header rfl (by decide) (by omega) (by decide) (by omega) rfl

theorem chEn (c : Chan) (en : Bool) : Statement (.chEn c en) := by
  have h1 := c.code_lt
  have h2 := bit_lt en
  exact of_header rfl (by decide) (by omega) (by decide) (by omega) rfl

theorem chStep (c : Chan) (x : NUM) : Statement (.chStep c x) := by
  have h := c.code_lt
  exact of_header rfl (by decide) (by omega) (by decide) (by decide) rfl

theorem chRst (c : Chan) : Statement (.chRst c) := by
  have h := c.code_lt
  exact of_header rfl (by decide) (by omega) (by decide) (by decide) rfl

theorem dynThr (v : NUM) : Statement (.dynThr v) :=
  of_header rfl (by decide) (by decide) (by decide) (by decide) rfl

theorem dynRat (v : NUM) : Statement (.dynRat v) :=
  of_header rfl (by decide) (by decide) (by decide) (by decide) rfl

theorem dynKne (v : NUM) : Statement (.dynKne v) :=
  of_header rfl (by decide) (by decide) (by decide) (by decide) rfl

theorem dynAtt (v : NUM) : Statement (.dynAtt v) :=
  of_header rfl (by decide) (by decide) (by decide) (by decide) rfl

theorem dynRel (v : NUM) : Statement (.dynRel v) :=
  of_header rfl (by decide) (by decide) (by decide) (by decide) rfl

theorem dynLnk (v : NUM) : Statement (.dynLnk v) :=
  of_header rfl (by decide) (by decide) (by decide) (by decide) rfl

theorem dynAuto (en : Bool) : Statement (.dynAuto en) := by
  have h := bit_lt en
  exact of_header rfl (by decide) (by decide) (by decide) (by omega) rfl

theorem envStep (c : Chan) (level : NUM) : Statement (.envStep c level) := by
  have h := c.code_lt
  exact of_header rfl (by decide) (by omega) (by decide) (by decide) rfl

theorem gcEval (e : NUM) : Statement (.gcEval e) :=
  of_header rfl (by decide) (by decide) (by decide) (by decide) rfl

theorem dynStep (sL sR : NUM) : Statement (.dynStep sL sR) :=
  of_header rfl (by decide) (by decide) (by decide) (by decide) rfl

theorem dynStepm (x : NUM) : Statement (.dynStepm x) :=
  of_header rfl (by decide) (by decide) (by decide) (by decide) rfl

theorem dynPub : Statement (.dynPub) :=
  of_header rfl (by decide) (by decide) (by decide) (by decide) rfl

theorem kwStep (c : Chan) (x : NUM) : Statement (.kwStep c x) := by
  have h := c.code_lt
  exact of_header rfl (by decide) (by omega) (by decide) (by decide) rfl

theorem swPush (p : NUM) : Statement (.swPush p) :=
  of_header rfl (by decide) (by decide) (by decide) (by decide) rfl

theorem lmPub : Statement (.lmPub) :=
  of_header rfl (by decide) (by decide) (by decide) (by decide) rfl

theorem giAcc (p : NUM) : Statement (.giAcc p) :=
  of_header rfl (by decide) (by decide) (by decide) (by decide) rfl

theorem laOffer (ms : NUM) : Statement (.laOffer ms) :=
  of_header rfl (by decide) (by decide) (by decide) (by decide) rfl

theorem lmStep (xL xR : NUM) : Statement (.lmStep xL xR) :=
  of_header rfl (by decide) (by decide) (by decide) (by decide) rfl

theorem lmStepm (x : NUM) : Statement (.lmStepm x) :=
  of_header rfl (by decide) (by decide) (by decide) (by decide) rfl

end PacketLength

end Sys2Proof.Laws
end

