-- ==== Sys2Proof/Laws/Units.lean ====
section
/-! SUPPORT. What the units' shared operations do to the state, once each. -/

namespace Sys2Proof.Machine

/-! ### Offering and accumulating blocks -/

/-- Everything `offerBlock` can do: drop the block, store it, or find the history full. -/
theorem offerBlock_cases (ms : NUM) (s : State) :
    (offerBlock ms s = s) ∨
    (s.lm.n < s.cfg.blkCap ∧
      offerBlock ms s =
        { s with
          lm := storeBlock s.lm ms (lufs s.cfg ms)
          ro := acceptReadouts s.cfg (storeBlock s.lm ms (lufs s.cfg ms)) s.ro }) ∨
    (¬ s.lm.n < s.cfg.blkCap ∧ offerBlock ms s = s.setBlkfull true) := by
  unfold offerBlock
  split
  · split
    · rename_i h
      exact .inr (.inl ⟨h, rfl⟩)
    · rename_i h
      exact .inr (.inr ⟨h, rfl⟩)
  · exact .inl rfl

/-- Everything `gateAcc` can do: close the partial block and offer it, or go on with it. -/
theorem gateAcc_cases (p : NUM) (s : State) :
    (s.n100 ≤ s.lm.gcnt + 1 ∧
      gateAcc p s = offerBlock (s.cfg.num.div (s.cfg.num.add s.lm.gsum p) (s.cfg.num.toNUM (s.lm.gcnt + 1)))
        { s with lm := { s.lm with gsum := .zero, gcnt := 0 } }) ∨
    (¬ s.n100 ≤ s.lm.gcnt + 1 ∧
      gateAcc p s = { s with lm := { s.lm with gsum := s.cfg.num.add s.lm.gsum p, gcnt := s.lm.gcnt + 1 } }) := by
  unfold gateAcc
  split
  · rename_i h
    exact .inl ⟨h, rfl⟩
  · rename_i h
    exact .inr ⟨h, rfl⟩

/-! ### Fields these operations leave -/

@[simp] theorem storeBlock_kwc1 (m : Meter) (ms l : NUM) : (storeBlock m ms l).kwc1 = m.kwc1 := rfl
@[simp] theorem storeBlock_kwc2 (m : Meter) (ms l : NUM) : (storeBlock m ms l).kwc2 = m.kwc2 := rfl
@[simp] theorem storeBlock_kw (m : Meter) (ms l : NUM) : (storeBlock m ms l).kw = m.kw := rfl
@[simp] theorem storeBlock_winM (m : Meter) (ms l : NUM) : (storeBlock m ms l).winM = m.winM := rfl
@[simp] theorem storeBlock_winS (m : Meter) (ms l : NUM) : (storeBlock m ms l).winS = m.winS := rfl
@[simp] theorem storeBlock_gsum (m : Meter) (ms l : NUM) : (storeBlock m ms l).gsum = m.gsum := rfl
@[simp] theorem storeBlock_gcnt (m : Meter) (ms l : NUM) : (storeBlock m ms l).gcnt = m.gcnt := rfl
@[simp] theorem storeBlock_n (m : Meter) (ms l : NUM) : (storeBlock m ms l).n = m.n + 1 := rfl
@[simp] theorem storeBlock_blkMS (m : Meter) (ms l : NUM) : (storeBlock m ms l).blkMS = m.blkMS ++ [ms] := rfl
@[simp] theorem storeBlock_blkLU (m : Meter) (ms l : NUM) : (storeBlock m ms l).blkLU = m.blkLU ++ [l] := rfl
@[simp] theorem acceptReadouts_integ (k : Params) (m : Meter) (r : Readouts) :
    (acceptReadouts k m r).integ = integrated k m := by
  unfold acceptReadouts
  split <;> rfl
@[simp] theorem acceptReadouts_mom (k : Params) (m : Meter) (r : Readouts) : (acceptReadouts k m r).mom = r.mom := by
  unfold acceptReadouts
  split <;> rfl
@[simp] theorem acceptReadouts_st (k : Params) (m : Meter) (r : Readouts) : (acceptReadouts k m r).st = r.st := by
  unfold acceptReadouts
  split <;> rfl
@[simp] theorem acceptReadouts_gr (k : Params) (m : Meter) (r : Readouts) : (acceptReadouts k m r).gr = r.gr := by
  unfold acceptReadouts
  split <;> rfl
theorem acceptReadouts_lra (k : Params) (m : Meter) (r : Readouts) :
    (acceptReadouts k m r).lra = if k.lraMinBlk < m.n then loudnessRange k.num m else r.lra := by
  unfold acceptReadouts
  split <;> rfl
theorem acceptReadouts_dr (k : Params) (m : Meter) (r : Readouts) :
    (acceptReadouts k m r).dr = if k.lraMinBlk < m.n then k.num.min (loudnessRange k.num m) k.drMax else r.dr := by
  unfold acceptReadouts
  split <;> rfl
@[simp] theorem offerBlock_status_prep (ms : NUM) (s : State) : (offerBlock ms s).status.prep = s.status.prep := by
  rcases offerBlock_cases ms s with h | ⟨-, h⟩ | ⟨-, h⟩ <;> rw [h]
  rfl
@[simp] theorem offerBlock_status_ill (ms : NUM) (s : State) : (offerBlock ms s).status.ill = s.status.ill := by
  rcases offerBlock_cases ms s with h | ⟨-, h⟩ | ⟨-, h⟩ <;> rw [h]
  rfl
@[simp] theorem offerBlock_ro_mom (ms : NUM) (s : State) : (offerBlock ms s).ro.mom = s.ro.mom := by
  rcases offerBlock_cases ms s with h | ⟨-, h⟩ | ⟨-, h⟩ <;> rw [h]
  · exact acceptReadouts_mom _ _ _
  · rfl
@[simp] theorem offerBlock_ro_st (ms : NUM) (s : State) : (offerBlock ms s).ro.st = s.ro.st := by
  rcases offerBlock_cases ms s with h | ⟨-, h⟩ | ⟨-, h⟩ <;> rw [h]
  · exact acceptReadouts_st _ _ _
  · rfl
@[simp] theorem offerBlock_ro_gr (ms : NUM) (s : State) : (offerBlock ms s).ro.gr = s.ro.gr := by
  rcases offerBlock_cases ms s with h | ⟨-, h⟩ | ⟨-, h⟩ <;> rw [h]
  · exact acceptReadouts_gr _ _ _
  · rfl
@[simp] theorem offerBlock_lm_kwc1 (ms : NUM) (s : State) : (offerBlock ms s).lm.kwc1 = s.lm.kwc1 := by
  rcases offerBlock_cases ms s with h | ⟨-, h⟩ | ⟨-, h⟩ <;> rw [h] <;> rfl
@[simp] theorem offerBlock_lm_kwc2 (ms : NUM) (s : State) : (offerBlock ms s).lm.kwc2 = s.lm.kwc2 := by
  rcases offerBlock_cases ms s with h | ⟨-, h⟩ | ⟨-, h⟩ <;> rw [h] <;> rfl
@[simp] theorem offerBlock_lm_kw (ms : NUM) (s : State) : (offerBlock ms s).lm.kw = s.lm.kw := by
  rcases offerBlock_cases ms s with h | ⟨-, h⟩ | ⟨-, h⟩ <;> rw [h] <;> rfl
@[simp] theorem offerBlock_lm_winM (ms : NUM) (s : State) : (offerBlock ms s).lm.winM = s.lm.winM := by
  rcases offerBlock_cases ms s with h | ⟨-, h⟩ | ⟨-, h⟩ <;> rw [h] <;> rfl
@[simp] theorem offerBlock_lm_winS (ms : NUM) (s : State) : (offerBlock ms s).lm.winS = s.lm.winS := by
  rcases offerBlock_cases ms s with h | ⟨-, h⟩ | ⟨-, h⟩ <;> rw [h] <;> rfl
@[simp] theorem offerBlock_lm_gsum (ms : NUM) (s : State) : (offerBlock ms s).lm.gsum = s.lm.gsum := by
  rcases offerBlock_cases ms s with h | ⟨-, h⟩ | ⟨-, h⟩ <;> rw [h] <;> rfl
@[simp] theorem offerBlock_lm_gcnt (ms : NUM) (s : State) : (offerBlock ms s).lm.gcnt = s.lm.gcnt := by
  rcases offerBlock_cases ms s with h | ⟨-, h⟩ | ⟨-, h⟩ <;> rw [h] <;> rfl

@[simp] theorem offerBlock_fs (ms : NUM) (s : State) : (offerBlock ms s).fs = s.fs := by
  rcases offerBlock_cases ms s with h | ⟨-, h⟩ | ⟨-, h⟩ <;> rw [h]
  rfl
@[simp] theorem offerBlock_blksz (ms : NUM) (s : State) : (offerBlock ms s).blksz = s.blksz := by
  rcases offerBlock_cases ms s with h | ⟨-, h⟩ | ⟨-, h⟩ <;> rw [h]
  rfl
@[simp] theorem offerBlock_n100 (ms : NUM) (s : State) : (offerBlock ms s).n100 = s.n100 := by
  rcases offerBlock_cases ms s with h | ⟨-, h⟩ | ⟨-, h⟩ <;> rw [h]
  rfl
@[simp] theorem offerBlock_n400 (ms : NUM) (s : State) : (offerBlock ms s).n400 = s.n400 := by
  rcases offerBlock_cases ms s with h | ⟨-, h⟩ | ⟨-, h⟩ <;> rw [h]
  rfl
@[simp] theorem offerBlock_n3s (ms : NUM) (s : State) : (offerBlock ms s).n3s = s.n3s := by
  rcases offerBlock_cases ms s with h | ⟨-, h⟩ | ⟨-, h⟩ <;> rw [h]
  rfl
@[simp] theorem offerBlock_bq (ms : NUM) (s : State) : (offerBlock ms s).bq = s.bq := by
  rcases offerBlock_cases ms s with h | ⟨-, h⟩ | ⟨-, h⟩ <;> rw [h]
  rfl
@[simp] theorem offerBlock_ch (ms : NUM) (s : State) : (offerBlock ms s).ch = s.ch := by
  rcases offerBlock_cases ms s with h | ⟨-, h⟩ | ⟨-, h⟩ <;> rw [h]
  rfl
@[simp] theorem offerBlock_dyn (ms : NUM) (s : State) : (offerBlock ms s).dyn = s.dyn := by
  rcases offerBlock_cases ms s with h | ⟨-, h⟩ | ⟨-, h⟩ <;> rw [h]
  rfl
@[simp] theorem offerBlock_ports (ms : NUM) (s : State) : (offerBlock ms s).ports = s.ports := by
  rcases offerBlock_cases ms s with h | ⟨-, h⟩ | ⟨-, h⟩ <;> rw [h]
  rfl
@[simp] theorem offerBlock_cur (ms : NUM) (s : State) : (offerBlock ms s).cur = s.cur := by
  rcases offerBlock_cases ms s with h | ⟨-, h⟩ | ⟨-, h⟩ <;> rw [h]
  rfl
@[simp] theorem offerBlock_turn (ms : NUM) (s : State) : (offerBlock ms s).turn = s.turn := by
  rcases offerBlock_cases ms s with h | ⟨-, h⟩ | ⟨-, h⟩ <;> rw [h]
  rfl
@[simp] theorem offerBlock_cfg (ms : NUM) (s : State) : (offerBlock ms s).cfg = s.cfg := by
  rcases offerBlock_cases ms s with h | ⟨-, h⟩ | ⟨-, h⟩ <;> rw [h]
  rfl
@[simp] theorem gateAcc_fs (p : NUM) (s : State) : (gateAcc p s).fs = s.fs := by
  rcases gateAcc_cases p s with ⟨-, h⟩ | ⟨-, h⟩ <;> simp [h]
@[simp] theorem gateAcc_blksz (p : NUM) (s : State) : (gateAcc p s).blksz = s.blksz := by
  rcases gateAcc_cases p s with ⟨-, h⟩ | ⟨-, h⟩ <;> simp [h]
@[simp] theorem gateAcc_n100 (p : NUM) (s : State) : (gateAcc p s).n100 = s.n100 := by
  rcases gateAcc_cases p s with ⟨-, h⟩ | ⟨-, h⟩ <;> simp [h]
@[simp] theorem gateAcc_n400 (p : NUM) (s : State) : (gateAcc p s).n400 = s.n400 := by
  rcases gateAcc_cases p s with ⟨-, h⟩ | ⟨-, h⟩ <;> simp [h]
@[simp] theorem gateAcc_n3s (p : NUM) (s : State) : (gateAcc p s).n3s = s.n3s := by
  rcases gateAcc_cases p s with ⟨-, h⟩ | ⟨-, h⟩ <;> simp [h]
@[simp] theorem gateAcc_bq (p : NUM) (s : State) : (gateAcc p s).bq = s.bq := by
  rcases gateAcc_cases p s with ⟨-, h⟩ | ⟨-, h⟩ <;> simp [h]
@[simp] theorem gateAcc_ch (p : NUM) (s : State) : (gateAcc p s).ch = s.ch := by
  rcases gateAcc_cases p s with ⟨-, h⟩ | ⟨-, h⟩ <;> simp [h]
@[simp] theorem gateAcc_dyn (p : NUM) (s : State) : (gateAcc p s).dyn = s.dyn := by
  rcases gateAcc_cases p s with ⟨-, h⟩ | ⟨-, h⟩ <;> simp [h]
@[simp] theorem gateAcc_ports (p : NUM) (s : State) : (gateAcc p s).ports = s.ports := by
  rcases gateAcc_cases p s with ⟨-, h⟩ | ⟨-, h⟩ <;> simp [h]
@[simp] theorem gateAcc_cur (p : NUM) (s : State) : (gateAcc p s).cur = s.cur := by
  rcases gateAcc_cases p s with ⟨-, h⟩ | ⟨-, h⟩ <;> simp [h]
@[simp] theorem gateAcc_turn (p : NUM) (s : State) : (gateAcc p s).turn = s.turn := by
  rcases gateAcc_cases p s with ⟨-, h⟩ | ⟨-, h⟩ <;> simp [h]
@[simp] theorem gateAcc_cfg (p : NUM) (s : State) : (gateAcc p s).cfg = s.cfg := by
  rcases gateAcc_cases p s with ⟨-, h⟩ | ⟨-, h⟩ <;> simp [h]
@[simp] theorem gateAcc_status_prep (p : NUM) (s : State) : (gateAcc p s).status.prep = s.status.prep := by
  rcases gateAcc_cases p s with ⟨-, h⟩ | ⟨-, h⟩ <;> simp [h]
@[simp] theorem gateAcc_status_ill (p : NUM) (s : State) : (gateAcc p s).status.ill = s.status.ill := by
  rcases gateAcc_cases p s with ⟨-, h⟩ | ⟨-, h⟩ <;> simp [h]
@[simp] theorem gateAcc_ro_mom (p : NUM) (s : State) : (gateAcc p s).ro.mom = s.ro.mom := by
  rcases gateAcc_cases p s with ⟨-, h⟩ | ⟨-, h⟩ <;> simp [h]
@[simp] theorem gateAcc_ro_st (p : NUM) (s : State) : (gateAcc p s).ro.st = s.ro.st := by
  rcases gateAcc_cases p s with ⟨-, h⟩ | ⟨-, h⟩ <;> simp [h]
@[simp] theorem gateAcc_ro_gr (p : NUM) (s : State) : (gateAcc p s).ro.gr = s.ro.gr := by
  rcases gateAcc_cases p s with ⟨-, h⟩ | ⟨-, h⟩ <;> simp [h]
@[simp] theorem gateAcc_lm_kwc1 (p : NUM) (s : State) : (gateAcc p s).lm.kwc1 = s.lm.kwc1 := by
  rcases gateAcc_cases p s with ⟨-, h⟩ | ⟨-, h⟩ <;> simp [h]
@[simp] theorem gateAcc_lm_kwc2 (p : NUM) (s : State) : (gateAcc p s).lm.kwc2 = s.lm.kwc2 := by
  rcases gateAcc_cases p s with ⟨-, h⟩ | ⟨-, h⟩ <;> simp [h]
@[simp] theorem gateAcc_lm_kw (p : NUM) (s : State) : (gateAcc p s).lm.kw = s.lm.kw := by
  rcases gateAcc_cases p s with ⟨-, h⟩ | ⟨-, h⟩ <;> simp [h]
@[simp] theorem gateAcc_lm_winM (p : NUM) (s : State) : (gateAcc p s).lm.winM = s.lm.winM := by
  rcases gateAcc_cases p s with ⟨-, h⟩ | ⟨-, h⟩ <;> simp [h]
@[simp] theorem gateAcc_lm_winS (p : NUM) (s : State) : (gateAcc p s).lm.winS = s.lm.winS := by
  rcases gateAcc_cases p s with ⟨-, h⟩ | ⟨-, h⟩ <;> simp [h]
@[simp] theorem meterSample_fs (xL xR : NUM) (s : State) : (meterSample xL xR s).fs = s.fs := by
  simp [meterSample]
@[simp] theorem meterSample_blksz (xL xR : NUM) (s : State) : (meterSample xL xR s).blksz = s.blksz := by
  simp [meterSample]
@[simp] theorem meterSample_n100 (xL xR : NUM) (s : State) : (meterSample xL xR s).n100 = s.n100 := by
  simp [meterSample]
@[simp] theorem meterSample_n400 (xL xR : NUM) (s : State) : (meterSample xL xR s).n400 = s.n400 := by
  simp [meterSample]
@[simp] theorem meterSample_n3s (xL xR : NUM) (s : State) : (meterSample xL xR s).n3s = s.n3s := by
  simp [meterSample]
@[simp] theorem meterSample_bq (xL xR : NUM) (s : State) : (meterSample xL xR s).bq = s.bq := by
  simp [meterSample]
@[simp] theorem meterSample_ch (xL xR : NUM) (s : State) : (meterSample xL xR s).ch = s.ch := by
  simp [meterSample]
@[simp] theorem meterSample_dyn (xL xR : NUM) (s : State) : (meterSample xL xR s).dyn = s.dyn := by
  simp [meterSample]
@[simp] theorem meterSample_ports (xL xR : NUM) (s : State) : (meterSample xL xR s).ports = s.ports := by
  simp [meterSample]
@[simp] theorem meterSample_cur (xL xR : NUM) (s : State) : (meterSample xL xR s).cur = s.cur := by
  simp [meterSample]
@[simp] theorem meterSample_turn (xL xR : NUM) (s : State) : (meterSample xL xR s).turn = s.turn := by
  simp [meterSample]
@[simp] theorem meterSample_cfg (xL xR : NUM) (s : State) : (meterSample xL xR s).cfg = s.cfg := by
  simp [meterSample]
@[simp] theorem resetUnits_status (units : Nat) (s : State) : (resetUnits units s).status = s.status := rfl
@[simp] theorem resetUnits_fs (units : Nat) (s : State) : (resetUnits units s).fs = s.fs := rfl
@[simp] theorem resetUnits_blksz (units : Nat) (s : State) : (resetUnits units s).blksz = s.blksz := rfl
@[simp] theorem resetUnits_n100 (units : Nat) (s : State) : (resetUnits units s).n100 = s.n100 := rfl
@[simp] theorem resetUnits_n400 (units : Nat) (s : State) : (resetUnits units s).n400 = s.n400 := rfl
@[simp] theorem resetUnits_n3s (units : Nat) (s : State) : (resetUnits units s).n3s = s.n3s := rfl
@[simp] theorem resetUnits_ro (units : Nat) (s : State) : (resetUnits units s).ro = s.ro := rfl
@[simp] theorem resetUnits_ports (units : Nat) (s : State) : (resetUnits units s).ports = s.ports := rfl
@[simp] theorem resetUnits_cur (units : Nat) (s : State) : (resetUnits units s).cur = s.cur := rfl
@[simp] theorem resetUnits_turn (units : Nat) (s : State) : (resetUnits units s).turn = s.turn := rfl
@[simp] theorem resetUnits_cfg (units : Nat) (s : State) : (resetUnits units s).cfg = s.cfg := rfl
@[simp] theorem prepared_ports (fs : NUM) (bs : U32) (s : State) : (prepared fs bs s).ports = s.ports := rfl
@[simp] theorem prepared_cur (fs : NUM) (bs : U32) (s : State) : (prepared fs bs s).cur = s.cur := rfl
@[simp] theorem prepared_turn (fs : NUM) (bs : U32) (s : State) : (prepared fs bs s).turn = s.turn := rfl
@[simp] theorem prepared_cfg (fs : NUM) (bs : U32) (s : State) : (prepared fs bs s).cfg = s.cfg := rfl

/-! ### Clearing -/

@[simp] theorem clearBiquad_coef (b : Biquad) : (clearBiquad b).coef = b.coef := rfl
@[simp] theorem clearBiquad_st (b : Biquad) : (clearBiquad b).st = clearedDelay := rfl
@[simp] theorem clearChain_ty (h : Chain) : (clearChain h).ty = h.ty := rfl
@[simp] theorem clearChain_order (h : Chain) : (clearChain h).order = h.order := rfl
@[simp] theorem clearChain_freq (h : Chain) : (clearChain h).freq = h.freq := rfl
@[simp] theorem clearChain_en (h : Chain) : (clearChain h).en = h.en := rfl
@[simp] theorem clearChain_stage (h : Chain) : (clearChain h).stage = h.stage.map clearBiquad := rfl

/-! ### Chains -/

@[simp] theorem recomputeChain_ty (k : Params) (fs : NUM) (h : Chain) : (recomputeChain k fs h).ty = h.ty := rfl
@[simp] theorem recomputeChain_order (k : Params) (fs : NUM) (h : Chain) :
    (recomputeChain k fs h).order = h.order := rfl
@[simp] theorem recomputeChain_freq (k : Params) (fs : NUM) (h : Chain) :
    (recomputeChain k fs h).freq = h.freq := rfl
@[simp] theorem recomputeChain_en (k : Params) (fs : NUM) (h : Chain) : (recomputeChain k fs h).en = h.en := rfl

theorem recomputeChain_coef (k : Params) (fs : NUM) (h : Chain) (i : Fin 4) :
    ((recomputeChain k fs h).stage.get i).coef = chainCoef k h.ty h.freq h.order.toNat i fs := by
  match i with
  | 0 => rfl
  | 1 => rfl
  | 2 => rfl
  | 3 => rfl

theorem recomputeChain_st (k : Params) (fs : NUM) (h : Chain) (i : Fin 4) :
    ((recomputeChain k fs h).stage.get i).st = (h.stage.get i).st := by
  match i with
  | 0 => rfl
  | 1 => rfl
  | 2 => rfl
  | 3 => rfl

theorem stageRun_coef (F : NumFormat) (n i : Nat) (b : Biquad) (v : NUM) : (stageRun F n i b v).2.coef = b.coef := by
  unfold stageRun
  split <;> rfl

/-- Running the stages leaves every coefficient set. -/
theorem runStages_coef (F : NumFormat) (n : Nat) (q : Four Biquad) (v : NUM) (i : Fin 4) :
    ((runStages F n q v).2.get i).coef = (q.get i).coef := by
  match i with
  | 0 => exact stageRun_coef _ _ _ _ _
  | 1 => exact stageRun_coef _ _ _ _ _
  | 2 => exact stageRun_coef _ _ _ _ _
  | 3 => exact stageRun_coef _ _ _ _ _

/-! ### The words of an instance of a configuration function -/

/-- A table of levels never grows with the level. -/
theorem fallingSteps_antitone (steps : List (NUM × NUM)) (top : Nat) {x y : NUM} (h : x.key ≤ y.key) :
    fallingSteps steps top y ≤ fallingSteps steps top x := by
  unfold fallingSteps
  induction steps with
  | nil => exact Nat.le_refl _
  | cons e es ih =>
    simp only [List.foldr_cons]
    split <;> split <;> omega

/-- A table of levels never falls with the level. -/
theorem risingSteps_monotone (steps : List (NUM × NUM)) {x y : NUM} (h : x.key ≤ y.key) :
    risingSteps steps x ≤ risingSteps steps y := by
  unfold risingSteps
  induction steps with
  | nil => exact Nat.le_refl _
  | cons e es ih =>
    simp only [List.foldr_cons]
    split <;> split <;> omega

/-- A table whose values do not grow with its levels has at each of its levels the value listed there. -/
theorem fallingSteps_of_mem {steps : List (NUM × NUM)} {top : Nat} {e : NUM × NUM} (he : e ∈ steps)
    (ht : e.2.mag ≤ top) (hs : ∀ d ∈ steps, d.1.key ≤ e.1.key → e.2.mag ≤ d.2.mag) :
    fallingSteps steps top e.1 = e.2.mag := by
  have low : ∀ l : List (NUM × NUM), (∀ d ∈ l, d.1.key ≤ e.1.key → e.2.mag ≤ d.2.mag) →
      e.2.mag ≤ fallingSteps l top e.1 := by
    intro l hl
    induction l with
    | nil => exact ht
    | cons d ds ih =>
      have := ih fun x hx => hl x (List.mem_cons_of_mem _ hx)
      have hd := hl d List.mem_cons_self
      simp only [fallingSteps, List.foldr_cons] at this ⊢
      split <;> omega
  have high : ∀ l : List (NUM × NUM), e ∈ l → fallingSteps l top e.1 ≤ e.2.mag := by
    intro l hl
    induction l with
    | nil => cases hl
    | cons d ds ih =>
      simp only [fallingSteps, List.foldr_cons] at ih ⊢
      rcases List.mem_cons.1 hl with rfl | h
      · rw [if_pos (Int.le_refl _)]
        exact Nat.min_le_left _ _
      · have := ih h
        split <;> omega
  exact Nat.le_antisymm (high _ he) (low _ hs)

/-- A table whose values do not fall with its levels has at each of its levels the value listed there. -/
theorem risingSteps_of_mem {steps : List (NUM × NUM)} {e : NUM × NUM} (he : e ∈ steps)
    (hs : ∀ d ∈ steps, d.1.key ≤ e.1.key → d.2.mag ≤ e.2.mag) : risingSteps steps e.1 = e.2.mag := by
  have high : ∀ l : List (NUM × NUM), (∀ d ∈ l, d.1.key ≤ e.1.key → d.2.mag ≤ e.2.mag) →
      risingSteps l e.1 ≤ e.2.mag := by
    intro l hl
    induction l with
    | nil => exact Nat.zero_le _
    | cons d ds ih =>
      have := ih fun x hx => hl x (List.mem_cons_of_mem _ hx)
      have hd := hl d List.mem_cons_self
      simp only [risingSteps, List.foldr_cons] at this ⊢
      split <;> omega
  have low : ∀ l : List (NUM × NUM), e ∈ l → e.2.mag ≤ risingSteps l e.1 := by
    intro l hl
    induction l with
    | nil => cases hl
    | cons d ds ih =>
      simp only [risingSteps, List.foldr_cons] at ih ⊢
      rcases List.mem_cons.1 hl with rfl | h
      · rw [if_pos (Int.le_refl _)]
        exact Nat.le_max_left _ _
      · have := ih h
        split <;> omega
  exact Nat.le_antisymm (high _ hs) (low _ he)

/-- Within the slack the value itself, else what is nearest to it; with no slack the formula's. -/
theorem nearFormula_spec (f : Fit) (formula v : Nat) :
    formula - f.slack ≤ nearFormula f formula v ∧ nearFormula f formula v ≤ formula + f.slack ∧
    (formula - f.slack ≤ v → v ≤ formula + f.slack → nearFormula f formula v = v) := by
  unfold nearFormula
  omega

/-- Two formulas and two values in the same order stay in it. -/
theorem nearFormula_mono (f : Fit) {l l' v v' : Nat} (hl : l ≤ l') (hv : v ≤ v') :
    nearFormula f l v ≤ nearFormula f l' v' := by
  unfold nearFormula
  omega

/-- Every AUTOREL_MAP other than the default stays in the release range, at every level. -/
theorem autoRelOther_range (k : Params) (lo hi : NUM) (fit : Fit) (a : NUM) (h : k.arRelMin.mag ≤ k.arRelMax.mag) :
    (autoRelOther k lo hi fit a).isNeg = false ∧ k.arRelMin.mag ≤ (autoRelOther k lo hi fit a).mag ∧
    (autoRelOther k lo hi fit a).mag ≤ k.arRelMax.mag := by
  have hw : ∀ w : Nat, max k.arRelMin.mag (min k.arRelMax.mag w) < 2 ^ 31 := fun w => by
    have := k.arRelMax.mag_lt
    omega
  simp only [autoRelOther, NUM.ofSignMag_isNeg _ _ (hw _), NUM.ofSignMag_mag _ _ (hw _)]
  exact ⟨trivial, Nat.le_max_left _ _, Nat.max_le.2 ⟨h, Nat.min_le_left _ _⟩⟩

/-! ### The soft knee -/

/-- The coefficients of a quadratic blend are in order: `0 <= mid <= fin <= 1`. -/
theorem kneeCoefs_spec (F : NumFormat) (mid fin : Nat) :
    (kneeCoefs F mid fin).1.isNeg = false ∧ (kneeCoefs F mid fin).2.isNeg = false ∧
    (kneeCoefs F mid fin).1.mag ≤ (kneeCoefs F mid fin).2.mag ∧ (kneeCoefs F mid fin).2.mag ≤ F.one.mag := by
  have hf : min fin F.one.mag < 2 ^ 31 := Nat.lt_of_le_of_lt (Nat.min_le_right _ _) (NUM.mag_lt _)
  have hm : min mid (min fin F.one.mag) < 2 ^ 31 := Nat.lt_of_le_of_lt (Nat.min_le_right _ _) hf
  simp only [kneeCoefs, NUM.ofSignMag_isNeg _ _ hf, NUM.ofSignMag_isNeg _ _ hm, NUM.ofSignMag_mag _ _ hf,
    NUM.ofSignMag_mag _ _ hm]
  exact ⟨trivial, trivial, Nat.min_le_right _ _, Nat.min_le_right _ _⟩

/-- The words of a row are not negative, not above the hard-knee line at the knee end, and grow with the level wherever the
blend they are fitted to does. -/
theorem kneeFitted_spec (fit : Fit) (blended endLine x : NUM) :
    (kneeFitted fit blended endLine x).isNeg = false ∧ (kneeFitted fit blended endLine x).mag ≤ endLine.mag ∧
    ∀ blended' x' : NUM, blended.mag ≤ blended'.mag → x.key ≤ x'.key →
      (kneeFitted fit blended endLine x).mag ≤ (kneeFitted fit blended' endLine x').mag := by
  have hw : ∀ w : Nat, min w endLine.mag < 2 ^ 31 := fun w =>
    Nat.lt_of_le_of_lt (Nat.min_le_right _ _) endLine.mag_lt
  simp only [kneeFitted, NUM.ofSignMag_isNeg _ _ (hw _), NUM.ofSignMag_mag _ _ (hw _)]
  refine ⟨trivial, Nat.min_le_right _ _, fun b x' hb hx => ?_⟩
  have := nearFormula_mono fit hb (risingSteps_monotone fit.steps hx)
  omega

/-- A row can hold any words that grow with the level and stay below the hard-knee line at the knee end: at each level of its
table the value listed there, where the slack reaches it. -/
theorem kneeFitted_of_mem {fit : Fit} {blended endLine : NUM} {e : NUM × NUM} (he : e ∈ fit.steps)
    (hs : ∀ d ∈ fit.steps, d.1.key ≤ e.1.key → d.2.mag ≤ e.2.mag) (hn : e.2.isNeg = false)
    (hl : e.2.mag ≤ endLine.mag) (h0 : blended.mag - fit.slack ≤ e.2.mag) (h1 : e.2.mag ≤ blended.mag + fit.slack) :
    kneeFitted fit blended endLine e.1 = e.2 := by
  rw [kneeFitted, risingSteps_of_mem he hs, (nearFormula_spec fit _ _).2.2 h0 h1, Nat.min_eq_left hl, ← hn]
  exact NUM.ofSignMag_eta _

/-- An AUTOREL_MAP can hold any words that fall with the level and stay in the release range: at each level of its table the
value listed there, where the slack is as wide as the words. -/
theorem autoRelOther_of_mem {k : Params} {lo hi : NUM} {fit : Fit} {e : NUM × NUM} (he : e ∈ fit.steps)
    (hs : ∀ d ∈ fit.steps, d.1.key ≤ e.1.key → e.2.mag ≤ d.2.mag) (hn : e.2.isNeg = false)
    (h0 : k.arRelMin.mag ≤ e.2.mag) (h1 : e.2.mag ≤ k.arRelMax.mag) (hf : 2 ^ 31 ≤ fit.slack) :
    autoRelOther k lo hi fit e.1 = e.2 := by
  have hm := e.2.mag_lt
  have hl := NUM.mag_lt (autoRelLine k (k.num.div (k.num.sub (k.num.clamp e.1 lo hi) lo) (k.num.sub hi lo)))
  simp only [autoRelOther, fallingSteps_of_mem he h1 hs]
  rw [(nearFormula_spec fit _ _).2.2 (by omega) (by omega), Nat.min_eq_right h1, Nat.max_eq_right h0, ← hn]
  exact NUM.ofSignMag_eta _

/-- Everything a quadratic blend gives inside the window, on finite words: no reduction, the hard-knee line at the knee end,
or the blended value between them. -/
theorem kneeBlended_between (F : NumFormat) (span : KneeSpan) (blend : KneeBlend) (mid fin x t w r : NUM)
    (hl : F.isFinite (kneeEndLine F t w r) = true) (h0 : 0 ≤ (kneeEndLine F t w r).key)
    (hv : F.isFinite (F.mul (kneeSpan F span x t w) (kneeSlope F blend r
      (kneeWeight F mid fin (F.clamp (F.div (pastKneeStart F x t w) w) .zero F.one)))) = true) :
    0 ≤ (kneeBlended F span blend mid fin x t w r).key ∧
    (kneeBlended F span blend mid fin x t w r).key ≤ (kneeEndLine F t w r).key :=
  (F.clamp_between hv F.isFinite_zero hl h0).2

/-- Inside the window a KNEE_CURVE other than the default is `kneeOther`. -/
theorem kneeCurve_other {k : Params} {x t w : NUM} {span : KneeSpan} {blend : KneeBlend} {rows : List KneeRow} (r : NUM)
    (hk : k.kneeCurve = .other span blend rows)
    (hs : k.num.le x (k.num.sub t (k.num.div w k.num.two)) = false)
    (he : k.num.ge x (k.num.add t (k.num.div w k.num.two)) = false) :
    kneeCurve k x t w r = kneeOther k.num span blend rows x t w r := by
  simp [kneeCurve, hk, hs, he]

/-! ### The detector -/

/-! An envelope step writes the envelope and the slow copy of its own channel, and nothing else. -/

@[simp] theorem envAdvance_thresh (k : Params) (fs : NUM) (d : Dyn) (c : Chan) (level : NUM) :
    (envAdvance k fs d c level).thresh = d.thresh := by
  unfold envAdvance trackLevel
  split <;> rfl
@[simp] theorem envAdvance_ratio (k : Params) (fs : NUM) (d : Dyn) (c : Chan) (level : NUM) :
    (envAdvance k fs d c level).ratio = d.ratio := by
  unfold envAdvance trackLevel
  split <;> rfl
@[simp] theorem envAdvance_knee (k : Params) (fs : NUM) (d : Dyn) (c : Chan) (level : NUM) :
    (envAdvance k fs d c level).knee = d.knee := by
  unfold envAdvance trackLevel
  split <;> rfl
@[simp] theorem envAdvance_attack (k : Params) (fs : NUM) (d : Dyn) (c : Chan) (level : NUM) :
    (envAdvance k fs d c level).attack = d.attack := by
  unfold envAdvance trackLevel
  split <;> rfl
@[simp] theorem envAdvance_release (k : Params) (fs : NUM) (d : Dyn) (c : Chan) (level : NUM) :
    (envAdvance k fs d c level).release = d.release := by
  unfold envAdvance trackLevel
  split <;> rfl
@[simp] theorem envAdvance_link (k : Params) (fs : NUM) (d : Dyn) (c : Chan) (level : NUM) :
    (envAdvance k fs d c level).link = d.link := by
  unfold envAdvance trackLevel
  split <;> rfl
@[simp] theorem envAdvance_auto (k : Params) (fs : NUM) (d : Dyn) (c : Chan) (level : NUM) :
    (envAdvance k fs d c level).auto = d.auto := by
  unfold envAdvance trackLevel
  split <;> rfl
@[simp] theorem envAdvance_attc (k : Params) (fs : NUM) (d : Dyn) (c : Chan) (level : NUM) :
    (envAdvance k fs d c level).attc = d.attc := by
  unfold envAdvance trackLevel
  split <;> rfl
@[simp] theorem envAdvance_relc (k : Params) (fs : NUM) (d : Dyn) (c : Chan) (level : NUM) :
    (envAdvance k fs d c level).relc = d.relc := by
  unfold envAdvance trackLevel
  split <;> rfl
@[simp] theorem envAdvance_arc (k : Params) (fs : NUM) (d : Dyn) (c : Chan) (level : NUM) :
    (envAdvance k fs d c level).arc = d.arc := by
  unfold envAdvance trackLevel
  split <;> rfl
@[simp] theorem envAdvance_grmax (k : Params) (fs : NUM) (d : Dyn) (c : Chan) (level : NUM) :
    (envAdvance k fs d c level).grmax = d.grmax := by
  unfold envAdvance trackLevel
  split <;> rfl

theorem envAdvance_env_other (k : Params) (fs : NUM) (d : Dyn) {c c' : Chan} (level : NUM) (h : c' ≠ c) :
    (envAdvance k fs d c level).env.get c' = d.env.get c' := by
  unfold envAdvance trackLevel
  split <;> exact Duo.get_set_other _ _ h

theorem envAdvance_ar_other (k : Params) (fs : NUM) (d : Dyn) {c c' : Chan} (level : NUM) (h : c' ≠ c) :
    (envAdvance k fs d c level).ar.get c' = d.ar.get c' := by
  unfold envAdvance trackLevel
  split
  · exact Duo.get_set_other _ _ h
  · rfl

/-! A detector step writes the envelopes, the slow copies and the running peak, and nothing else. -/

@[simp] theorem detect_thresh (k : Params) (fs : NUM) (d : Dyn) (sL sR : NUM) :
    (detect k fs d sL sR).1.thresh = d.thresh := by
  simp [detect]
@[simp] theorem detect_ratio (k : Params) (fs : NUM) (d : Dyn) (sL sR : NUM) :
    (detect k fs d sL sR).1.ratio = d.ratio := by
  simp [detect]
@[simp] theorem detect_knee (k : Params) (fs : NUM) (d : Dyn) (sL sR : NUM) :
    (detect k fs d sL sR).1.knee = d.knee := by
  simp [detect]
@[simp] theorem detect_attack (k : Params) (fs : NUM) (d : Dyn) (sL sR : NUM) :
    (detect k fs d sL sR).1.attack = d.attack := by
  simp [detect]
@[simp] theorem detect_release (k : Params) (fs : NUM) (d : Dyn) (sL sR : NUM) :
    (detect k fs d sL sR).1.release = d.release := by
  simp [detect]
@[simp] theorem detect_link (k : Params) (fs : NUM) (d : Dyn) (sL sR : NUM) :
    (detect k fs d sL sR).1.link = d.link := by
  simp [detect]
@[simp] theorem detect_auto (k : Params) (fs : NUM) (d : Dyn) (sL sR : NUM) :
    (detect k fs d sL sR).1.auto = d.auto := by
  simp [detect]
@[simp] theorem detect_attc (k : Params) (fs : NUM) (d : Dyn) (sL sR : NUM) :
    (detect k fs d sL sR).1.attc = d.attc := by
  simp [detect]
@[simp] theorem detect_relc (k : Params) (fs : NUM) (d : Dyn) (sL sR : NUM) :
    (detect k fs d sL sR).1.relc = d.relc := by
  simp [detect]
@[simp] theorem detect_arc (k : Params) (fs : NUM) (d : Dyn) (sL sR : NUM) :
    (detect k fs d sL sR).1.arc = d.arc := by
  simp [detect]

end Sys2Proof.Machine
end

