-- ==== Sys2Proof/Machine/HostCalls.lean ====
section
/-! DEFINITION. What the host writes for the block: the pseudo-instructions (30 R100), the document's calls as commands
(46 R256, R257), and the assembly notation of a command (30 R99). Lists of commands and text; no state. -/

namespace Sys2Proof.Machine

/-- The pseudo-instructions of 30 R100. -/
inductive Pseudo where
  | resetAll
  | bqIdent (c : Chan)
  | chBypass (c : Chan)
  | dynHard (thr ratio : NUM)
  | lmFrame (xL xR : NUM)
  deriving DecidableEq, Repr

/-- Their expansions (30 R100), the constant 1.0 in the format NUM. -/
def expandPseudo (F : NumFormat) : Pseudo → List Instr
  | .resetAll => [.reset 15]
  | .bqIdent c => [.bqSetc c F.one .zero .zero .zero .zero]
  | .chBypass c => [.chEn c false]
  | .dynHard thr ratio => [.dynThr thr, .dynRat ratio, .dynKne .zero]
  | .lmFrame xL xR => [.lmStep xL xR, .lmPub]

/-- A stereo sample of an EQ buffer as its filters meet it: the inputs of the two chains, and the inputs of the bands that
are loaded into a BQ, with the channel of each. The host takes a band's input from the filter before it (46 R256: it "feeds
the next band"), so it is an operand here. -/
structure EqSample where
  left : NUM
  right : NUM
  bands : List (Chan × NUM)
  deriving DecidableEq, Repr

/-- The commands of one sample of an EQ buffer: both chains, then every band loaded into a BQ (46 R256). -/
def EqSample.commands (x : EqSample) : List Instr :=
  [.chStep .ch0 x.left, .chStep .ch1 x.right] ++ x.bands.map fun b => .bqStep b.1 b.2

/-- The document's calls that reach a unit in scope (46 R256, R257). -/
inductive HostCall where
  | prepare (fs : NUM) (bs : U32)
  | resetEq
  /-- `reset()` of the EQ's filters, instance by instance. -/
  | resetEqInstance (c : Chan)
  | resetCompressor (withSidechainFilter : Bool)
  | resetMeter
  | resetIntegrated
  | biquadSetCoefficients (c : Chan) (b0 b1 b2 a1 a2 : NUM)
  | biquadProcessSample (c : Chan) (x : NUM)
  | biquadReset (c : Chan)
  | chainSetParameters (c : Chan) (ty : FilterType) (freq : NUM) (order : Nat)
  | chainEnable (c : Chan) (en : Bool)
  | chainProcessSample (c : Chan) (x : NUM)
  | setThreshold (v : NUM)
  | setRatio (v : NUM)
  | setKnee (v : NUM)
  | setAttack (v : NUM)
  | setRelease (v : NUM)
  | setLink (v : NUM)
  | setAutoRelease (en : Bool)
  | getGainReduction
  | getMomentary
  | getShortTerm
  | getIntegrated
  | getLoudnessRange
  | getDynamicRange
  /-- The filters inside `EQ.process` on a buffer of stereo samples. -/
  | processEq (buffer : List EqSample)
  /-- `Compressor.process` on a buffer of stereo, or mono, samples. -/
  | processCompressor (buffer : List (NUM × NUM))
  | processCompressorMono (buffer : List NUM)
  /-- `LoudnessMeter.process` on a buffer of stereo, or mono, samples. -/
  | processMeter (buffer : List (NUM × NUM))
  | processMeterMono (buffer : List NUM)
  deriving DecidableEq, Repr

/-- The commands that carry a call, in the order the agent presents them (46 R256, R257). -/
def HostCall.commands : HostCall → List Instr
  | .prepare fs bs => [.prepare fs bs]
  | .resetEq => [.reset 3]
  | .resetEqInstance c => [.bqRst c, .chRst c]
  | .resetCompressor withSidechainFilter => [.reset (if withSidechainFilter then 5 else 4)]
  | .resetMeter => [.reset 8]
  | .resetIntegrated => [.rsti]
  | .biquadSetCoefficients c b0 b1 b2 a1 a2 => [.bqSetc c b0 b1 b2 a1 a2]
  | .biquadProcessSample c x => [.bqStep c x]
  | .biquadReset c => [.bqRst c]
  | .chainSetParameters c ty freq order => [.chSetp c ty order freq]
  | .chainEnable c en => [.chEn c en]
  | .chainProcessSample c x => [.chStep c x]
  | .setThreshold v => [.dynThr v]
  | .setRatio v => [.dynRat v]
  | .setKnee v => [.dynKne v]
  | .setAttack v => [.dynAtt v]
  | .setRelease v => [.dynRel v]
  | .setLink v => [.dynLnk v]
  | .setAutoRelease en => [.dynAuto en]
  | .getGainReduction => [.rdr 0x0405]
  | .getMomentary => [.rdr 0x0400]
  | .getShortTerm => [.rdr 0x0401]
  | .getIntegrated => [.rdr 0x0402]
  | .getLoudnessRange => [.rdr 0x0403]
  | .getDynamicRange => [.rdr 0x0404]
  | .processEq buffer => buffer.flatMap EqSample.commands
  | .processCompressor buffer => buffer.map (fun x => .dynStep x.1 x.2) ++ [.dynPub]
  | .processCompressorMono buffer => buffer.map .dynStepm ++ [.dynPub]
  | .processMeter buffer => buffer.map (fun x => .lmStep x.1 x.2) ++ [.lmPub]
  | .processMeterMono buffer => buffer.map .lmStepm ++ [.lmPub]

/-- The words of a list of commands, in order. -/
def assemble (is : List Instr) : List Word := is.flatMap encode

/-! ### Assembly notation (30 R99) -/

/-- The last `n` hexadecimal digits of a number, in capitals. -/
def hexDigits : Nat → Nat → List Char
  | 0, _ => []
  | n + 1, w => hexDigits n (w / 16) ++ [(Nat.digitChar (w % 16)).toUpper]

/-- A 32-bit word as a word literal, `0x` and eight digits. -/
def hexWord (w : Word) : String := "0x" ++ String.ofList (hexDigits 8 w.toNat)

/-- A NUM operand as a word literal. -/
def asmNum (x : NUM) : String := "#" ++ hexWord x.bits

/-- Operands separated by commas. -/
def asmOps (ops : List String) : String := String.intercalate ", " ops

def asmChan : Chan → String
  | .ch0 => "0"
  | .ch1 => "1"

def asmFlag (b : Bool) : String := if b then "1" else "0"

def asmType : FilterType → String
  | .lowPass => "LP"
  | .highPass => "HP"

/-- A command as a line of the notation, NUM operands as word literals. -/
def assembly : Instr → String
  | .nop => "NOP"
  | .prepare fs bs => "PREPARE " ++ asmOps [asmNum fs, hexWord bs]
  | .reset units => "RESET " ++ toString units
  | .rsti => "RSTI"
  | .rdr addr => "RDR 0x" ++ String.ofList (hexDigits 4 addr)
  | .bqSetc c b0 b1 b2 a1 a2 =>
    "BQ.SETC " ++ asmOps [asmChan c, asmNum b0, asmNum b1, asmNum b2, asmNum a1, asmNum a2]
  | .bqStep c x => "BQ.STEP " ++ asmOps [asmChan c, asmNum x]
  | .bqRst c => "BQ.RST " ++ asmChan c
  | .chSetp c ty orderReq freq => "CH.SETP " ++ asmOps [asmChan c, asmType ty, toString orderReq, asmNum freq]
  | .chEn c en => "CH.EN " ++ asmOps [asmChan c, asmFlag en]
  | .chStep c x => "CH.STEP " ++ asmOps [asmChan c, asmNum x]
  | .chRst c => "CH.RST " ++ asmChan c
  | .dynThr v => "DYN.THR " ++ asmNum v
  | .dynRat v => "DYN.RAT " ++ asmNum v
  | .dynKne v => "DYN.KNE " ++ asmNum v
  | .dynAtt v => "DYN.ATT " ++ asmNum v
  | .dynRel v => "DYN.REL " ++ asmNum v
  | .dynLnk v => "DYN.LNK " ++ asmNum v
  | .dynAuto en => "DYN.AUTO " ++ asmFlag en
  | .envStep c level => "ENV.STEP " ++ asmOps [asmChan c, asmNum level]
  | .gcEval e => "GC.EVAL " ++ asmNum e
  | .dynStep sL sR => "DYN.STEP " ++ asmOps [asmNum sL, asmNum sR]
  | .dynStepm x => "DYN.STEPM " ++ asmNum x
  | .dynPub => "DYN.PUB"
  | .kwStep c x => "KW.STEP " ++ asmOps [asmChan c, asmNum x]
  | .swPush p => "SW.PUSH " ++ asmNum p
  | .lmPub => "LM.PUB"
  | .giAcc p => "GI.ACC " ++ asmNum p
  | .laOffer ms => "LA.OFFER " ++ asmNum ms
  | .lmStep xL xR => "LM.STEP " ++ asmOps [asmNum xL, asmNum xR]
  | .lmStepm x => "LM.STEPM " ++ asmNum x

end Sys2Proof.Machine
end

