-- ==== Sys2Proof/Tests/Slice0.lean ====
section
/-! SUPPORT. The model's own tests, each on one step or one word, with the results spec/95_test_vectors.md or the named
rule gives; and for every statement with hypotheses a state or operands that meet them. -/

namespace Sys2Proof.Tests

open Sys2Proof.Machine

-- One theorem at a time: evaluated in parallel, they need more memory for stacks than the check allows.
set_option Elab.async false

/-! ### Helpers -/

/-- The state after a command; the state itself where it stops. -/
def after (i : Instr) (s : State) : State :=
  match exec i s with
  | .next t => t
  | _ => s

/-- The response words on the processing port after a command. -/
def answers (i : Instr) (s : State) : List Word := (after i s).ports.processing.resp

/-- The word RDR reads after a command. -/
def regAfter (i : Instr) (s : State) (a : Nat) : Option Word := (after i s).regRead a

def isNext (r : Result) : Bool :=
  match r with
  | .next _ => true
  | _ => false

/-- The default format. -/
abbrev F : NumFormat := .binary32

/-- 1.0 in binary32. -/
def one : NUM := ⟨0x3F800000⟩

/-- A decimal with one digit after the point. -/
def dec1 (n : Nat) : NUM := F.ofRat n 10

/-- `PREPARE 48000.0, 512` from power-on. -/
def ready : State := prepared ⟨0x473B8000⟩ 512 State.reset

/-- Ready, with V3's set in BQ[0] and the delay line of V3 after step 2. -/
def filtering : State :=
  let set : Coef := ⟨⟨0x3F000000⟩, ⟨0x3E800000⟩, ⟨0x3E000000⟩, ⟨0xBF000000⟩, ⟨0x3E800000⟩⟩
  let line : Delay := ⟨⟨0⟩, ⟨0x3F800000⟩, ⟨0x3F000000⟩, ⟨0x3F000000⟩⟩
  { ready with bq := ready.bq.set .ch0 { coef := set, st := line } }

/-- Ready, with V7 (a)'s illustrative coefficients and an envelope. -/
def following (env : Word) : State :=
  { ready with dyn := { ready.dyn with attc := ⟨0x3F000000⟩, relc := ⟨0x3E800000⟩, env := .both ⟨env⟩ } }

/-- Ready, with identity sets in both K-weighting stages. -/
def weighting : State := { ready with lm := { ready.lm with kwc1 := identityCoef F, kwc2 := identityCoef F } }

/-- A chain of order 2 of identity stages but the first, which halves; enabled. -/
def chaining : State :=
  let same : Biquad := { coef := identityCoef F, st := clearedDelay }
  let half : Biquad := { same with coef := { identityCoef F with b0 := ⟨0x3F000000⟩ } }
  let mute : Biquad := { same with coef := { identityCoef F with b0 := .zero } }
  let chain : Chain :=
    { ty := .lowPass, order := 2, freq := dec1 10000, en := true
      stage := { s0 := half, s1 := same, s2 := mute, s3 := same } }
  { ready with ch := .both chain }

/-! ### Well-formedness refuses what no encoding holds -/

theorem test_reset_mask_too_wide : (Instr.reset 16).wellFormed = false := by decide
theorem test_rdr_address_too_wide : (Instr.rdr 65536).wellFormed = false := by decide
theorem test_chSetp_order_too_wide : (Instr.chSetp .ch0 .lowPass 16 one).wellFormed = false := by decide

/-! ### Decoding: each constructor from a word written out from R94 -/

theorem test_decode_system :
    decode [0x00000000] = .ok .nop ∧
    decode [0x01000000, 0x473B8000, 0x00000200] = .ok (.prepare ⟨0x473B8000⟩ 512) ∧
    decode [0x020F0000] = .ok (.reset 15) ∧ decode [0x02040000] = .ok (.reset 4) ∧
    decode [0x03000000] = .ok .rsti ∧
    decode [0x040001C8] = .ok (.rdr 0x01C8) := by decide +kernel

theorem test_decode_bq :
    decode [0x10000000, 0x3F000000, 0x3E800000, 0x3E000000, 0xBF000000, 0x3E800001] =
      .ok (.bqSetc .ch0 ⟨0x3F000000⟩ ⟨0x3E800000⟩ ⟨0x3E000000⟩ ⟨0xBF000000⟩ ⟨0x3E800001⟩) ∧
    decode [0x11100000, 0x3F800000] = .ok (.bqStep .ch1 ⟨0x3F800000⟩) ∧
    decode [0x12100000] = .ok (.bqRst .ch1) := by decide +kernel

theorem test_decode_ch :
    decode [0x20100104, 0x42A00000] = .ok (.chSetp .ch1 .highPass 4 ⟨0x42A00000⟩) ∧
    decode [0x2000000F, 0x447A0000] = .ok (.chSetp .ch0 .lowPass 15 ⟨0x447A0000⟩) ∧
    decode [0x21000001] = .ok (.chEn .ch0 true) ∧ decode [0x21100000] = .ok (.chEn .ch1 false) ∧
    decode [0x22000000, 0x3F800000] = .ok (.chStep .ch0 ⟨0x3F800000⟩) ∧
    decode [0x23100000] = .ok (.chRst .ch1) := by decide +kernel

theorem test_decode_dyn :
    decode [0x30000000, 0xC1A00000] = .ok (.dynThr ⟨0xC1A00000⟩) ∧
    decode [0x30010000, 0x40800000] = .ok (.dynRat ⟨0x40800000⟩) ∧
    decode [0x30020000, 0x40C00000] = .ok (.dynKne ⟨0x40C00000⟩) ∧
    decode [0x30030000, 0x41200000] = .ok (.dynAtt ⟨0x41200000⟩) ∧
    decode [0x30040000, 0x42C80000] = .ok (.dynRel ⟨0x42C80000⟩) ∧
    decode [0x30050000, 0x3F000000] = .ok (.dynLnk ⟨0x3F000000⟩) ∧
    decode [0x31000001] = .ok (.dynAuto true) ∧
    decode [0x32100000, 0x3F800000] = .ok (.envStep .ch1 ⟨0x3F800000⟩) ∧
    decode [0x33000000, 0x3EA1E89B] = .ok (.gcEval ⟨0x3EA1E89B⟩) ∧
    decode [0x34000000, 0x3EA1E89B, 0x00000000] = .ok (.dynStep ⟨0x3EA1E89B⟩ ⟨0⟩) ∧
    decode [0x35000000, 0x3EA1E89B] = .ok (.dynStepm ⟨0x3EA1E89B⟩) ∧
    decode [0x36000000] = .ok .dynPub := by decide +kernel

theorem test_decode_kw_sw :
    decode [0x40100000, 0x3F800000] = .ok (.kwStep .ch1 ⟨0x3F800000⟩) ∧
    decode [0x41000000, 0x3E800000] = .ok (.swPush ⟨0x3E800000⟩) ∧
    decode [0x46000000] = .ok .lmPub := by decide +kernel

theorem test_decode_gi_la_lm :
    decode [0x42000000, 0x3F000000] = .ok (.giAcc ⟨0x3F000000⟩) ∧
    decode [0x43000000, 0x3C4018BF] = .ok (.laOffer ⟨0x3C4018BF⟩) ∧
    decode [0x44000000, 0x3F800000, 0xBF800000] = .ok (.lmStep ⟨0x3F800000⟩ ⟨0xBF800000⟩) ∧
    decode [0x45000000, 0x3F800000] = .ok (.lmStepm ⟨0x3F800000⟩) := by decide +kernel

/-- V16 (d) and 30 R96: the headers that match no row. -/
theorem test_illegal_headers :
    decode [0x11200000, 0x3F800000] = .error (.illegal 0x11200000) ∧
    decode [0x11000001, 0x3F800000] = .error (.illegal 0x11000001) ∧
    decode [0x30060000, 0x3F800000] = .error (.illegal 0x30060000) ∧
    decode [0x33100000, 0x3F800000] = .error (.illegal 0x33100000) ∧
    decode [0x05000000] = .error (.illegal 0x05000000) ∧
    decode [0x50000000, 0x3F800000] = .error (.illegal 0x50000000) ∧
    decode [0x20000210, 0x447A0000] = .error (.illegal 0x20000210) := by decide +kernel

/-- 30 R90: a packet that is not complete presents nothing. -/
theorem test_incomplete_packets :
    decode [] = .error .incomplete ∧ decode [0x34000000, 0x3F800000] = .error .incomplete := by decide +kernel

/-- The response column of R94 is what the decoder counts by OPC, and every row's header decodes. -/
theorem test_rows_agree :
    (opcodeMap.all fun r => r.resp == respWords (opcOf r.bits) && headerLegal r.bits &&
      (decodePacket r.bits (List.replicate (nops (opcOf r.bits)) 0)).isSome) = true := by decide +kernel

theorem test_table_word :
    decodeTableWord 32 0x20100104 = some (.chSetp .ch1 .highPass 4 ⟨0⟩) ∧
    decodeTableWord 64 0x3F80000011000000 = some (.bqStep .ch0 ⟨0x3F800000⟩) ∧
    decodeTableWord 32 0x11000001 = none := by decide +kernel

theorem test_fetch_word :
    (match step (ready.withFetchWord 64 0x3F80000011000000) with
      | .next t => t.ports.processing == { cmd := [], resp := [0x3F800000] }
      | _ => false) = true := by decide +kernel

/-! ### System commands -/

theorem test_nop : regAfter .nop State.reset 0x0001 = some 0 := by decide +kernel

/-- V16 (a): 44100.5 Hz. -/
theorem test_prepare_counts :
    let s := after (.prepare ⟨0x472C4480⟩ 7) State.reset
    (s.n100, s.n400, s.n3s, s.blksz, s.status.word) = (4410, 17640, 132301, 7, 1) := by decide +kernel

/-- V16 (a): the two ends are accepted, 7999 Hz, a NaN, an infinity and a negative rate are not. -/
theorem test_prepare_range :
    ([0x45FA0000, 0x483B8000].all fun w => (after (.prepare ⟨w⟩ 0) State.reset).status.word == 1) = true ∧
    ([0x45F9F800, 0x7FC00000, 0x7F800000, 0, 0xC73B8000].all fun w =>
      (after (.prepare ⟨w⟩ 0) State.reset).status.word == 4) = true := by decide +kernel

/-- V16 (c): RESET 1 zeroes BQ's delay lines, RESET 4 leaves them. -/
theorem test_reset :
    regAfter (.reset 1) filtering 0x0017 = some 0 ∧ regAfter (.reset 4) filtering 0x0017 = some 0x3F000000 ∧
    regAfter (.reset 4) (following 0x3F800000) 0x020A = some 0 ∧
    regAfter (.reset 1) (following 0x3F800000) 0x020A = some 0x3F800000 := by decide +kernel

/-- 45 R228: BLKFULL is cleared, the partial block stays. -/
theorem test_rsti :
    let s : State := { ready with
      status := { ready.status with blkfull := true }, lm := { ready.lm with gcnt := 300, n := 2 } }
    (regAfter .rsti s 0x0001, regAfter .rsti s 0x0360, regAfter .rsti s 0x0351) = (some 1, some 0, some 300) := by
  decide +kernel

/-- V16 (d): a mapped address, and a hole. -/
theorem test_rdr :
    answers (.rdr 0x0000) State.reset = [0x4D420001] ∧ answers (.rdr 0x0019) State.reset = [0] ∧
    regAfter (.rdr 0x0019) State.reset 0x0001 = some 4 := by decide +kernel

/-! ### BQ -/

/-- V4, last sentence: a new set meets the old delay line. -/
theorem test_bqSetc :
    regAfter (.bqSetc .ch0 one .zero .zero .zero .zero) filtering 0x0013 = some 0 ∧
    regAfter (.bqSetc .ch0 one .zero .zero .zero .zero) filtering 0x0016 = some 0x3F800000 := by decide +kernel

/-- V3, step 3. -/
theorem test_bqStep :
    answers (.bqStep .ch0 .zero) filtering = [0x3E800000] ∧
    [0x15, 0x16, 0x17, 0x18].map (regAfter (.bqStep .ch0 .zero) filtering) =
      [some 0, some 0, some 0x3E800000, some 0x3F000000] := by decide +kernel

/-- V4: -0.0 from a cleared delay line comes out as +0.0, the smallest subnormal unchanged. -/
theorem test_bqStep_zero_and_subnormal :
    answers (.bqStep .ch0 ⟨0x80000000⟩) ready = [0] ∧ answers (.bqStep .ch0 ⟨1⟩) ready = [1] := by decide +kernel

theorem test_bqRst :
    regAfter (.bqRst .ch0) filtering 0x0016 = some 0 ∧ regAfter (.bqRst .ch1) filtering 0x0016 = some 0x3F800000 ∧
    regAfter (.bqRst .ch0) filtering 0x0010 = some 0x3F000000 := by decide +kernel

/-! ### CH -/

/-- V5 (a): the clamps. -/
theorem test_chSetp :
    [0x0101, 0x0102].map (regAfter (.chSetp .ch0 .lowPass 9 ⟨0x46EA6000⟩) ready) = [some 4, some 0x46A8C000] ∧
    [0x0101, 0x0102].map (regAfter (.chSetp .ch0 .lowPass 0 one) ready) = [some 1, some 0x41200000] := by
  decide +kernel

theorem test_chEn : [0x0103, 0x0183].map (regAfter (.chEn .ch1 true) ready) = [some 0, some 1] := by decide +kernel

/-- V5 (b): a disabled chain passes every pattern; 42 R153: order 2 runs stages 0 and 1, not stage 2. -/
theorem test_chStep :
    answers (.chStep .ch0 ⟨0x7FC00001⟩) ready = [0x7FC00001] ∧
    answers (.chStep .ch0 one) chaining = [0x3F000000] ∧
    [0x0115, 0x0125, 0x0135].map (regAfter (.chStep .ch0 one) chaining) =
      [some 0x3F800000, some 0x3F000000, some 0] := by decide +kernel

theorem test_chRst :
    regAfter (.chRst .ch0) (after (.chStep .ch0 one) chaining) 0x0115 = some 0 := by decide +kernel

/-- 40 R123: the table's rows, by its cells. -/
theorem test_butterQ :
    let k := { Params.default with qFill3 := ⟨3⟩, qFill4 := ⟨4⟩ }
    ([1, 2, 3, 4].map fun n => (List.range 4).map fun i => (butterQ k n i).bits) =
      [[0x3F350481, 0x3F350481, 0x3F350481, 0x3F350481], [0x3F350481, 0x3F350481, 0x3F350481, 0x3F350481],
       [0x3F800000, 0x3F000000, 3, 3], [0x3F0A8C15, 0x3FA73B64, 4, 4]] := by decide +kernel

/-! ### DYN: V6 to V9 -/

theorem test_dyn_setters :
    regAfter (.dynThr ⟨0xC2A00000⟩) ready 0x0200 = some 0xC2700000 ∧
    regAfter (.dynThr ⟨0x40400000⟩) ready 0x0200 = some 0 ∧
    regAfter (.dynRat ⟨0x3F000000⟩) ready 0x0201 = some 0x3F800000 ∧
    regAfter (.dynRat ⟨0x42C80000⟩) ready 0x0201 = some 0x41A00000 ∧
    regAfter (.dynKne ⟨0xBF800000⟩) ready 0x0202 = some 0 ∧
    regAfter (.dynKne ⟨0x40C00000⟩) ready 0x0202 = some 0x40C00000 ∧
    regAfter (.dynAtt ⟨0⟩) ready 0x0203 = some 0x3DCCCCCD ∧
    regAfter (.dynRel ⟨0x459C4000⟩) ready 0x0204 = some 0x447A0000 ∧
    regAfter (.dynLnk ⟨0x3F000000⟩) ready 0x0205 = some 0x3F000000 ∧
    regAfter (.dynLnk ⟨0x40000000⟩) ready 0x0205 = some 0x3F800000 ∧
    regAfter (.dynAuto true) ready 0x0206 = some 1 := by decide +kernel

/-- V7 (a): attack from 0.5, release from 0.875, and the level equal to the envelope. -/
theorem test_envStep :
    answers (.envStep .ch0 one) (following 0x3F000000) = [0x3F400000] ∧
    answers (.envStep .ch0 .zero) (following 0x3F600000) = [0x3F280000] ∧
    answers (.envStep .ch0 ⟨0x3F280000⟩) (following 0x3F280000) = [0x3F280000] := by decide +kernel

/-- 43 R182: for `e <= 0` the level is the floor and the reduction 0, the first of two words. -/
theorem test_gcEval :
    (answers (.gcEval .zero) ready).head? = some 0 ∧ (answers (.gcEval .zero) ready).length = 2 := by decide +kernel

/-- GcEvalAnswersReductionAndGain's clauses: R181's worked example at its own distances from the threshold, under the default
KNEE_CURVE: `e = 0` is the level
-100, and T moves past it; knee start, T, knee end, past the end; and the hard knee (R180's example). -/
theorem test_knee :
    let red (t w : Word) := (answers (.gcEval .zero) { ready with
      dyn := { ready.dyn with thresh := ⟨t⟩, knee := ⟨w⟩, ratio := ⟨0x40800000⟩ } }).head?
    [red 0xC2BE0000 0x41200000, red 0xC2C80000 0x41200000, red 0xC2D20000 0x41200000, red 0xC2DC0000 0x41200000,
     red 0xC2DC0000 0] = [some 0, some 0x3F700000, some 0x40700000, some 0x40F00000, some 0x40F00000] := by decide +kernel

/-- R181 P3, by hand, at T = -100, W = 10, R = 4 and the threshold itself, the middle of the window: the blend of the
slope with weight `p` is the default's 0.9375, and with weight `p * p` half of it; the ratio blended with weight `p * p` is
1.75, applied to half the distance past the start 2.5 * (1 - 1/1.75). Above the threshold the distance is 0. -/
theorem test_knee_blends :
    let at100 (span : KneeSpan) (blend : KneeBlend) (mid : Word) :=
      (kneeBlended F span blend ⟨mid⟩ one ⟨0xC2C80000⟩ ⟨0xC2C80000⟩ ⟨0x41200000⟩ ⟨0x40800000⟩).bits
    at100 .pastStart .slope 0x3F000000 = 0x3F700000 ∧ at100 .pastStart .slope 0 = 0x3EF00000 ∧
    at100 .pastStart .ratio 0 = 0x3F892492 ∧ at100 .overThreshold .ratio 0 = 0 := by decide +kernel

/-- The concave blend too: weight `2 * p * (1 - p) + p * p`, 0.75 in the middle of the window. -/
theorem test_knee_weight :
    (kneeWeight F one one ⟨0x3F000000⟩).bits = 0x3F400000 ∧ (kneeWeight F one one .zero).mag = 0 ∧
    (kneeWeight F one one one).bits = 0x3F800000 ∧ (kneeWeight F .zero one ⟨0x3F000000⟩).bits = 0x3E800000 := by
  decide +kernel

/-- GcEvalAnswersReductionAndGain's clause on a KNEE_CURVE other than the default: a level inside the window. -/
theorem test_knee_other :
    kneeCurve { Params.default with kneeCurve := .other .pastStart .ratio [] } ⟨0xC2C80000⟩ ⟨0xC2C80000⟩ ⟨0x41200000⟩
      ⟨0x40800000⟩ = kneeOther F .pastStart .ratio [] ⟨0xC2C80000⟩ ⟨0xC2C80000⟩ ⟨0x41200000⟩ ⟨0x40800000⟩ :=
  kneeCurve_other _ rfl (by decide +kernel) (by decide +kernel)

/-- R181 P3: a row gives its coefficients, so that the value is test_knee_blends's 0.9375, or a word of its own next to it,
and never one above the hard-knee line at the knee end, 3.75. -/
theorem test_knee_row :
    let at100 (fit : Fit) :=
      let row : KneeRow := { t := ⟨0xC2C80000⟩, w := ⟨0x41200000⟩, r := ⟨0x40800000⟩, mid := ⟨0x3F000000⟩, fin := one, fit := fit }
      (kneeOther F .pastStart .slope [row] ⟨0xC2C80000⟩ ⟨0xC2C80000⟩ ⟨0x41200000⟩ ⟨0x40800000⟩).bits
    at100 { slack := 0, steps := [] } = 0x3F700000 ∧
    at100 { slack := 9, steps := [(⟨0xC2C90000⟩, ⟨0x3F700003⟩)] } = 0x3F700003 ∧
    at100 { slack := 2 ^ 31, steps := [(⟨0xC2C90000⟩, ⟨0x41200000⟩)] } = 0x40700000 := by decide +kernel

/-- 43 R177: 500 ms at the lower end of the input range, 50 ms at its upper end and above, by default and for the range
from 0.25 to 0.75; and a table's word next to the line's 275 ms. -/
theorem test_autoRel :
    let other (steps : List (NUM × NUM)) : Params :=
      { Params.default with autoRelMap := .other ⟨0x3E800000⟩ ⟨0x3F400000⟩ { slack := steps.length, steps := steps } }
    ([0, 0x3F800000, 0x40000000].map fun w => (autoRelMs Params.default ⟨w⟩).bits) = [0x43FA0000, 0x42480000, 0x42480000] ∧
    ([0, 0x3F000000, 0x3F800000].map fun w => (autoRelMs (other []) ⟨w⟩).bits) = [0x43FA0000, 0x43898000, 0x42480000] ∧
    (autoRelMs (other [(⟨0x3F000000⟩, ⟨0x43897FFF⟩)]) ⟨0x3F000000⟩).bits = 0x43897FFF ∧
    (autoRelMs (other [(⟨0x3F000000⟩, ⟨0⟩)]) ⟨0x3F800000⟩).bits = 0x42480000 := by
  decide +kernel

/-- 43 R184: at LINK = 1 both envelopes follow the larger rectified sample. -/
theorem test_dynStep :
    [0x020A, 0x020B].map (regAfter (.dynStep ⟨0xBF800000⟩ .zero) (following 0)) =
      [some 0x3F000000, some 0x3F000000] := by decide +kernel

theorem test_dynStepm :
    (answers (.dynStepm one) (following 0)).length = 1 ∧
    regAfter (.dynStepm one) (following 0) 0x020B = some 0x3F000000 := by decide +kernel

theorem test_dynPub :
    let s : State := { ready with dyn := { ready.dyn with grmax := dec1 75 } }
    (regAfter .dynPub s 0x0405, regAfter .dynPub s 0x020E) = (some 0x40F00000, some 0) := by decide +kernel

/-! ### KW, SW, LM.PUB: V10, V11 -/

theorem test_kwStep :
    answers (.kwStep .ch0 one) weighting = [0x3F800000] ∧
    [0x0310, 0x0314, 0x0320].map (regAfter (.kwStep .ch0 one) weighting) =
      [some 0x3F800000, some 0x3F800000, some 0] := by decide +kernel

/-- The push after a full window evicts the oldest entry: 44 R205, with a small window. -/
theorem test_swPush :
    let s : State := { ready with n400 := 2, lm := { ready.lm with
      winM := { q := [dec1 5, one], cnt := 2, sum := dec1 15 } } }
    (after (.swPush ⟨0x40000000⟩) s).lm.winM = { q := [one, ⟨0x40000000⟩], cnt := 2, sum := ⟨0x40400000⟩ } ∧
    (after (.swPush ⟨0x40000000⟩) s).lm.winS.cnt = 1 := by decide +kernel

/-- V11, first line: empty windows publish LUFS0. -/
theorem test_lmPub : (after .lmPub { ready with ro := { ready.ro with mom := one } }).ro.mom = lufs0 Params.default := rfl

/-! ### GI, LA, LM: V12, V13 -/

/-- V13: the 799th sample of a block of 800. -/
theorem test_giAcc :
    let s : State := { ready with n100 := 800, lm := { ready.lm with gsum := ⟨0x43C78000⟩, gcnt := 798 } }
    [0x0350, 0x0351, 0x0360].map (regAfter (.giAcc ⟨0x3F000000⟩) s) = [some 0x43C7C000, some 799, some 0] := by
  decide +kernel

/-- The 800th closes it. -/
theorem test_giAcc_closes :
    let s : State := { ready with n100 := 800, lm := { ready.lm with gsum := ⟨0x43C7C000⟩, gcnt := 799 } }
    (after (.giAcc ⟨0x3F000000⟩) s).lm.gcnt = 0 ∧ (after (.giAcc ⟨0x3F000000⟩) s).lm.gsum = .zero := by
  have h (m : NUM) (s : State) : (offerBlock m s).lm.gcnt = s.lm.gcnt ∧ (offerBlock m s).lm.gsum = s.lm.gsum := by
    rcases offerBlock_cases m s with h | ⟨-, h⟩ | ⟨-, h⟩ <;> rw [h] <;> exact ⟨rfl, rfl⟩
  exact h _ _

/-- Ready, with no room in the history. -/
def full : State := { ready with cfg := { ready.cfg with blkCap := 0 } }

/-- V14 and V15 (c): a block above the gate is stored, or finds the history full; one that is not changes nothing. -/
theorem test_laOffer (ms : NUM) :
    (after (.laOffer ms) ready).lm.n =
      (if ready.cfg.num.gt (lufs ready.cfg ms) ready.cfg.absGate then 1 else 0) ∧
    (after (.laOffer ms) full).status.word =
      (if full.cfg.num.gt (lufs full.cfg ms) full.cfg.absGate then 3 else 1) := by
  have e (s : State) (h : s.status.prep = true) : after (.laOffer ms) s = offerBlock ms s := by
    simp [after, exec, execLaOffer, whenPrepared_of_prep h]
  rw [e _ rfl, e _ rfl]
  unfold offerBlock
  constructor <;> split <;> rfl

/-- V12 (a), with identity K-weighting: the power of (1, -1) is 1. -/
theorem test_lmStep :
    [0x0340, 0x0341, 0x0343, 0x0350, 0x0351].map (regAfter (.lmStep one ⟨0xBF800000⟩) weighting) =
      [some 1, some 0x3F800000, some 0x3F800000, some 0x3F800000, some 1] := by decide +kernel

theorem test_lmStepm :
    [0x0310, 0x0320, 0x0351].map (regAfter (.lmStepm ⟨0x40000000⟩) weighting) =
      [some 0x40000000, some 0x40000000, some 1] := by decide +kernel

/-! ### Arithmetic -/

/-- Rounding at its edges: a tie to even, overflow from the midpoint on, half the smallest subnormal. -/
theorem test_rounding :
    (F.ofRat (2 ^ 24 + 1) 1).bits = 0x4B800000 ∧ (F.ofRat (2 ^ 24 + 3) 1).bits = 0x4B800002 ∧
    F.roundMag ((2 ^ 25 - 1) * 2 ^ 252) 1 = F.infMag ∧ F.roundMag ((2 ^ 25 - 1) * 2 ^ 252 - 1) 1 = 0x7F7FFFFF ∧
    F.roundMag 1 2 = 0 ∧ F.roundMag 3 2 = 2 := by decide +kernel

/-- 60 R272: division by zero and overflow are no exceptions. -/
theorem test_infinities :
    (F.div one.neg .zero).bits = 0xFF800000 ∧ (F.mul ⟨0x7F7FFFFF⟩ F.two).bits = 0x7F800000 := by decide +kernel

/-- 60 R272: an invalid operation delivers a NaN; the root of -0.0 is no such operation. -/
theorem test_invalid :
    F.isNaN (F.div .zero .zero) = true ∧ F.isNaN (F.sqrt ⟨0xBF800000⟩) = true ∧
    (F.sqrt ⟨0x80000000⟩).bits = 0x80000000 :=
  ⟨F.invalid_isNaN .div _ _, F.invalid_isNaN .sqrt _ _, by decide +kernel⟩

theorem test_sqrt : (F.sqrt (F.ofRat 2 1)).bits = 0x3FB504F3 ∧ F.pi.bits = 0x40490FDB := by decide +kernel

/-- 93 U3: half the smallest normal number is a subnormal, or a zero in a format that flushes. -/
theorem test_flush :
    (F.mul ⟨0x00800000⟩ (F.ofRat 1 2)).bits = 0x00400000 ∧
    (NumFormat.mul { F with flush := true } ⟨0x00800000⟩ (F.ofRat 1 2)).bits = 0 := by decide +kernel

/-- Another format of the parameter NUM: five exponent bits, so that 1.0 is 15 steps of 2^26 and 1.5 half a step more. -/
theorem test_other_format :
    let G : NumFormat := { expCode := 3, flush := false }
    G.one.bits = 0x3C000000 ∧ (G.div (G.add G.one G.two) G.two).bits = 0x3E000000 := by decide +kernel

/-- 00 R6: decimals of the third column as binary32 words. -/
theorem test_default_params :
    let k := Params.default
    [k.fsMin, k.fsMax, k.qFill3, k.q3s0, k.q3s1, k.q4s0, k.q4s1, k.chFmaxK, k.thrMin, k.kneMax, k.arRelMax, k.kw1F0,
     k.kw1G, k.kw2F0, k.lufsOfs, k.msFloor, k.absGate, k.dbFloor].map (fun x => x.bits) =
      [0x45FA0000, 0x483B8000, 0x3F350481, 0x3F800000, 0x3F000000, 0x3F0A8C15, 0x3FA73B64, 0x3EE66666, 0xC2700000,
       0x41C00000, 0x43FA0000, 0x44D23F2F, 0x407FFD71, 0x42188AB9, 0xBF30E560, 0x2EDBE6FF, 0xC28C0000, 0xC2C80000] := by
  decide +kernel

/-! ### Discards and waits -/

/-- P5's first lines: an unprepared BQ.STEP answers one zero, GC.EVAL two, and ILL is set. -/
theorem test_unprepared :
    answers (.bqStep .ch0 one) State.reset = [0] ∧ answers (.gcEval one) State.reset = [0, 0] ∧
    regAfter (.gcEval one) State.reset 0x0001 = some 4 := by decide +kernel

/-- V16 (d): an unknown OPC takes no operand: one word is consumed. -/
theorem test_unknown_opc :
    (match step (ready.present .reader [0x50000000, 0x3F800000]) with
      | .next t => t.ports.reader == { cmd := [0x3F800000], resp := [] } && t.status.word == 5
      | _ => false) = true := by decide +kernel

/-- 30 R101: a packet whose responses have no room waits. -/
theorem test_no_room :
    let s : State := { ready with cfg := { ready.cfg with respExtra := 0 } }
    let t : State := { s with ports := { s.ports with control := { cmd := [0x04000000], resp := [1, 2] } } }
    t.readyAgents = [] ∧ (t.drain .control 1).readyAgents = [.control] := by decide +kernel

/-! ### The counts of the implementation (00 R6, log 3) -/

/-- Ready, in an implementation of one channel and three stages. -/
def small : State := { ready with cfg := { ready.cfg with nch := .one, nstage := .three } }

/-- Its order request is clamped to 3, its fourth stage and its second channel have no address, and a command that names
channel 1 is discarded. -/
theorem test_counts :
    regAfter (.chSetp .ch0 .lowPass 9 one) small 0x0101 = some 3 ∧
    [0x0138, 0x0140, 0x0183, 0x0024, 0x020B].map small.regRead = [some 0, none, none, none, none] ∧
    (match step (small.present .processing [0x11100000, 0x3F800000]) with
      | .next t => t.ports.processing == { cmd := [], resp := [0] } && t.status.word == 5
      | _ => false) = true ∧
    (match step (small.present .processing [0x11000000, 0x3F800000]) with
      | .next t => t.ports.processing == { cmd := [], resp := [0x3F800000] } && t.status.word == 1
      | _ => false) = true := by decide +kernel

/-! ### The host's side: 30 R99, R100, R102, 46 R256, 20 R72 -/

theorem test_host_calls :
    assemble (expandPseudo F .resetAll) = [0x020F0000] ∧
    HostCall.commands (.processMeter [(one, .zero)]) = expandPseudo F (.lmFrame one .zero) ∧
    HostCall.commands (.processEq [{ left := one, right := .zero, bands := [(.ch1, one)] }]) =
      [.chStep .ch0 one, .chStep .ch1 .zero, .bqStep .ch1 one] ∧
    HostCall.commands (.resetEqInstance .ch1) = [.bqRst .ch1, .chRst .ch1] ∧
    assembly (.chSetp .ch1 .highPass 4 ⟨0x42A00000⟩) = "CH.SETP 1, HP, 4, #0x42A00000" := by decide +kernel

theorem test_bus_bytes :
    busBytes .little 0x473B8001 = [0x01, 0x80, 0x3B, 0x47] ∧ busBytes .big 0x473B8001 = [0x47, 0x3B, 0x80, 0x01] ∧
    busWord .big [0x47, 0x3B, 0x80, 0x01] = 0x473B8001 := by decide +kernel

/-! ### Witnesses: each meets the hypotheses of the statements it names -/

/-- All statements whose hypothesis is `PREP = 1` alone (RSTI, BQ.SETC to BQ.RST, CH.EN to CH.RST, DYN, ENV, GC, KW, SW,
LM.PUB, GI, LA, LM): `ready`, with any operands. -/
theorem witness_prepared : ready.status.prep = true := rfl

/-- EncodedCommandsDecodeToThemselves and StepRunsTheDecodedCommand's first hypothesis, at the ends of the fields. -/
theorem witness_wellFormed :
    (Instr.reset 0).wellFormed = true ∧ (Instr.reset 15).wellFormed = true ∧ (Instr.rdr 65535).wellFormed = true ∧
    (Instr.chSetp .ch1 .highPass 15 one).wellFormed = true := by decide

/-- DecodedPacketsEncodeBack; HeadersDecodeExactlyWhenARowMatches on a legal and on an illegal header;
NoHeaderMatchesTwoRows. -/
theorem witness_packets :
    decodePacket 0x2010010F [0x42A00000] = some (.chSetp .ch1 .highPass 15 ⟨0x42A00000⟩) ∧
    [(0x42A00000 : Word)].length = nops (opcOf 0x2010010F) ∧ ([] : List Word).length = nops (opcOf 0xFF000000) ∧
    headerLegal 0x2010010F = true ∧ headerLegal 0xFF000000 = false ∧
    (opcodeMap.filter fun r => r.selects 0x2010010F).length = 1 := by decide +kernel

/-- StepRunsTheDecodedCommand: a command with two channels, and its two clauses with one. -/
theorem witness_step_runs :
    let s := ready.present .control (encode (.rdr 65535) ++ [0x34000000])
    let t (i : Instr) := small.present .reader (encode i)
    s.served = some .control ∧ (s.ports.get .control).cmd = encode (.rdr 65535) ++ [0x34000000] ∧ s.cfg.nch = .two ∧
    (t (.chRst .ch0)).served = some .reader ∧ (t (.chRst .ch1)).served = some .reader ∧ small.cfg.nch = .one ∧
    namesSecondChannel (.chRst .ch0) = false ∧ namesSecondChannel (.chRst .ch1) = true := by decide +kernel

/-- StepDiscardsIllegalHeaders. -/
theorem witness_step_discards :
    let s := ready.present .reader [0x33100000, 0x3F800000, 0x00000000]
    s.served = some .reader ∧ (s.ports.get .reader).cmd = 0x33100000 :: ([0x3F800000] ++ [0x00000000]) ∧
    [(0x3F800000 : Word)].length = nops (opcOf 0x33100000) ∧ headerLegal 0x33100000 = false := by decide +kernel

/-- StepWaitsWhereNoPacketCanExecute: one port with an incomplete packet, one full, one empty. -/
theorem witness_step_waits :
    let s : State := { ready with
      cfg := { ready.cfg with respExtra := 0 }
      ports :=
        { processing := { cmd := [0x34000000, 0x3F800000], resp := [] }
          control := { cmd := [0x04000000], resp := [1, 2] }
          reader := emptyPort } }
    ∀ a h ops rest, splitPacket (s.ports.get a).cmd = some (h, ops, rest) →
      s.respDepth < (s.ports.get a).resp.length + respWords (opcOf h) := by
  intro s a h ops rest hs
  cases a
  · have e : splitPacket [0x34000000, 0x3F800000] = some (h, ops, rest) := hs
    have n : splitPacket [0x34000000, 0x3F800000] = none := by decide +kernel
    rw [n] at e
    cases e
  · have e : some ((0x04000000 : Word), ([] : List Word), ([] : List Word)) = some (h, ops, rest) := hs
    cases e
    decide +kernel
  · have e : none = some (h, ops, rest) := hs
    cases e

/-- EachStepConsumesOnePacketOfOnePort, StepKeepsResponsesWithinRoom, PrepAndIllAreSticky, IllIsSetByTheListedCausesOnly,
IdAndParametersNeverChange: steps that do something, PREP set and clear, ILL clear. -/
theorem witness_steps :
    isNext (step (ready.present .reader [0x04000500])) = true ∧ ready.status.prep = true ∧ ready.status.ill = false ∧
    isNext (step (State.reset.present .control [0x33000000, 0x3F800000])) = true ∧
    isNext (step (State.reset.present .processing [0x01000000, 0x45F9F800, 0])) = true ∧
    isNext (step (ready.present .processing [0x05000000])) = true ∧
    isNext (step { (ready.present .reader [0x04000500]) with status := { ready.status with ill := true } }) = true :=
  by decide +kernel

theorem witness_responses_fit : ResponsesFit (ready.present .reader [0x04000500]) := by
  intro a
  cases a <;> decide +kernel

/-- PrepAndBlkfullChangeWhereTheTableSays: PREP rises by PREPARE, BLKFULL falls by RSTI; it rises by a block above the
absolute gate, which the free log10 decides. CommandsTouchOnlyTheStateTheyName, ReadoutsAreWrittenByTheirPublishersOnly:
commands that complete. -/
theorem witness_flags :
    State.reset.status.prep = false ∧ (after (.prepare ⟨0x45FA0000⟩ 0) State.reset).status.prep = true ∧
    isNext (exec .rsti { ready with status := { ready.status with blkfull := true } }) = true ∧
    (after .rsti { ready with status := { ready.status with blkfull := true } }).status.blkfull = false ∧
    isNext (exec (.laOffer one) full) = true ∧
    isNext (exec (.bqStep .ch0 one) ready) = true ∧ isNext (exec .lmPub ready) = true ∧
    isPrepare .lmPub = false := by decide +kernel

theorem witness_blkfull_rises (ms : NUM) (h : full.cfg.num.gt (lufs full.cfg ms) full.cfg.absGate = true) :
    (after (.laOffer ms) full).status.blkfull = true := by
  have e : after (.laOffer ms) full = offerBlock ms full := by
    simp [after, exec, execLaOffer, whenPrepared, show full.status.prep = true from rfl]
  rw [e, offerBlock, if_pos h]
  rfl

/-- UnpreparedCommandsAreDiscarded. -/
theorem witness_unprepared : State.reset.status.prep = false ∧ legalUnprepared (.dynStep one one) = false := by
  decide +kernel

/-- RdrReadsOneWord and RegisterMapIsTheTable: the clauses at the ends of a range and of the address space, and at the last
channel and stage. -/
theorem witness_rdr :
    let k := Params.default
    listed k 0x0000 = true ∧ listed k 0x0405 = true ∧ listed k 0x0406 = false ∧ listed k 0xFFFF = false ∧
    hasChannel k .ch1 = true ∧ 3 < k.nstage.toNat ∧ hasChannel small.cfg .ch1 = false := by decide

/-- PrepareReinitialises: the ends of the range, and the words next to them. -/
theorem witness_prepare :
    let k := Params.default
    F.ieeeLe k.fsMin ⟨0x45FA0000⟩ = true ∧ F.ieeeLe ⟨0x45FA0000⟩ k.fsMax = true ∧
    F.ieeeLe k.fsMin ⟨0x483B8000⟩ = true ∧ F.ieeeLe ⟨0x483B8000⟩ k.fsMax = true ∧
    F.ieeeLe k.fsMin ⟨0x45F9FFFF⟩ = false ∧ F.ieeeLe ⟨0x483B8001⟩ k.fsMax = false ∧
    F.ieeeLe k.fsMin ⟨0x7FC00000⟩ = false := by decide +kernel

/-- ResetClearsTheSelectedUnits and ChSetpClampsAndRecomputes, at the ends of their fields. -/
theorem witness_fields : ready.status.prep = true ∧ 0 < 16 ∧ 15 < 16 := by decide +kernel

/-- IdentityBiquadAnswersItsInput, on a delay line that is not cleared, for the smallest value and for -0.0. -/
theorem witness_identity :
    let s : State := { ready with bq := .both { coef := identityCoef F, st := (filtering.bq.get .ch0).st } }
    s.status.prep = true ∧
    (s.bq.get .ch0).coef = { b0 := s.cfg.num.one, b1 := .zero, b2 := .zero, a1 := .zero, a2 := .zero } ∧
    Delay.finite s.cfg.num (s.bq.get .ch0).st = true ∧ deliverable s.cfg.num ⟨1⟩ = true ∧
    deliverable s.cfg.num ⟨0x80000000⟩ = true ∧ deliverable { F with flush := true } ⟨0x00800000⟩ = true := by
  decide +kernel

/-- BqResponsesRepeatAfterReset: one set, two delay lines. -/
theorem witness_repeat :
    let s : State := { filtering with bq := filtering.bq.map clearBiquad }
    filtering.status.prep = true ∧ s.status.prep = true ∧ filtering.cfg.num = s.cfg.num ∧
    (filtering.bq.get .ch0).coef = (s.bq.get .ch0).coef ∧
    (filtering.bq.get .ch0).st ≠ (s.bq.get .ch0).st := by decide +kernel

/-- ChStepRunsOrderStagesInSeries: its two clauses. -/
theorem witness_chStep :
    ready.status.prep = true ∧ (ready.ch.get .ch0).en = false ∧
    chaining.status.prep = true ∧ (chaining.ch.get .ch0).en = true := by decide +kernel

/-- UnlinkedDetectorIsTwoMonoDetectors. -/
theorem witness_unlinked :
    let s : State := { following 0x3F000000 with dyn := { (following 0x3F000000).dyn with link := .zero } }
    s.status.prep = true ∧ s.dyn.link = .zero ∧ deliverable s.cfg.num ⟨0x7F7FFFFF⟩ = true ∧
    deliverable s.cfg.num ⟨0x80000001⟩ = true := by decide +kernel

/-- WindowKeepsTheNewestEntries: a full window and one with room; the smallest and the largest capacity. -/
theorem witness_window :
    WindowOk 1 { q := [one], cnt := 1, sum := one } ∧ WindowOk 2 { q := [one], cnt := 1, sum := one } ∧
    WindowOk 0xFFFFFFFE { q := [], cnt := 0, sum := .zero } ∧
    1 ≤ (1 : U32).toNat ∧ (0xFFFFFFFE : U32).toNat + 1 < 2 ^ 32 := by
  refine ⟨⟨?_, ?_⟩, ⟨?_, ?_⟩, ⟨?_, ?_⟩, ?_, ?_⟩ <;> decide

/-- IntegratedIsTheTwoPassLoop and RangeReadsTheSortedHistory: one block, and eleven. -/
theorem witness_history :
    let single : Meter := { ready.lm with blkMS := [one], blkLU := [dec1 7], n := 1 }
    let eleven : Meter := { ready.lm with blkMS := List.replicate 11 one, blkLU := List.replicate 11 (dec1 7), n := 11 }
    (single.n.toNat = single.blkMS.length ∧ single.blkLU.length = single.blkMS.length ∧ 0 < single.n.toNat) ∧
    (eleven.n.toNat = eleven.blkLU.length ∧ eleven.n.toNat * 95 < 2 ^ 32 ∧
      ∀ x ∈ eleven.blkLU, F.isFinite x = true) := by
  refine ⟨⟨rfl, rfl, by decide +kernel⟩, rfl, by decide +kernel, ?_⟩
  intro x hx
  rw [List.eq_of_mem_replicate hx]
  decide +kernel

/-- RoundingIsToNearestEven: a finite result with another finite magnitude, and an infinite one, in two formats; finite
operands, a divisor that is not zero, and zeros over zero. -/
theorem witness_rounding :
    let G : NumFormat := { expCode := 0, flush := true }
    0 < 3 ∧ F.roundMag 10 3 < F.infMag ∧ 4 < F.infMag ∧ 4 ≠ F.roundMag 10 3 ∧ F.roundMag (2 ^ 300) 3 = F.infMag ∧
    G.roundMag 10 3 = 3 ∧ 3 < G.infMag ∧ G.roundMag (2 ^ 31 - 1) 1 = G.infMag ∧
    F.isFinite one = true ∧ F.isFinite ⟨0x80000000⟩ = true ∧ F.units one ≠ 0 ∧ F.units ⟨0x80000000⟩ = 0 := by decide +kernel

/-- ClampStaysBetweenItsBounds: inside, at each bound, crossed bounds and equal ones. -/
theorem witness_clamp :
    let two := F.two
    F.isFinite .zero = true ∧ F.isFinite one = true ∧ F.isFinite two = true ∧
    (NUM.zero.key < one.key ∧ one.key < two.key) ∧ (one.key ≤ one.key ∧ one.key < two.key) ∧
    two.key ≤ two.key ∧ NUM.zero.key ≤ two.key ∧ two.key ≤ two.key := by decide +kernel

/-! ### Witnesses of the invariants -/

/-- Ready, with one entry in each window, one sample in the partial block, and a command that will push another. -/
def metering : State :=
  State.present
    { ready with lm := { ready.lm with
        winM := { q := [one], cnt := 1, sum := one }
        winS := { q := [one], cnt := 1, sum := one }
        gsum := one
        gcnt := 1 } }
    .processing (encode (.lmStepm one))

/-- ResetMeetsTheInvariants: the parameters of R6 meet its hypothesis. -/
theorem witness_params : ParamsSane Params.default :=
  ⟨by decide +kernel, by decide +kernel, by decide +kernel, by decide +kernel, by decide +kernel, by decide +kernel,
    by decide +kernel, by decide +kernel, by decide +kernel⟩

/-- StepKeepsSampleCounts. -/
theorem witness_sample_counts : SampleCountsOk metering ∧ isNext (step metering) = true where
  left :=
    { params := witness_params
      winM := ⟨by decide +kernel, by decide +kernel⟩
      winS := ⟨by decide +kernel, by decide +kernel⟩
      rate := fun _ => by decide +kernel
      n100 := fun _ => rfl
      n400 := fun _ => rfl
      n3s := fun _ => rfl
      gate := fun _ => by decide +kernel }
  right := by decide +kernel

/-- Ready, with one block in the history and a command that will offer another. -/
def measuring : State :=
  let m := storeBlock ready.lm one (lufs ready.cfg one)
  State.present { ready with lm := m, ro := { ready.ro with integ := integrated ready.cfg m } } .control (encode (.laOffer one))

/-- StepKeepsHistoryAndReadouts. -/
theorem witness_history_ok : HistoryOk measuring ∧ isNext (step measuring) = true where
  left :=
    { size := rfl
      capacity := by decide +kernel
      loudness := rfl
      full := fun h => absurd (h : false = true) (by decide)
      integ := (if_neg (by decide +kernel)).symm
      lra := (if_neg (by decide +kernel)).symm
      dr := (if_neg (by decide +kernel)).symm }
  right := by decide +kernel

/-- StepKeepsDerivedCoefficients. -/
theorem witness_derived :
    DerivedOk (ready.present .control [0x20100104, 0x42A00000]) ∧
    isNext (step (ready.present .control [0x20100104, 0x42A00000])) = true where
  left :=
    { chains := fun c =>
        { orderMin := by cases c <;> decide +kernel
          orderMax := by cases c <;> decide +kernel
          sets := fun _ i => by
            cases c <;>
            (match i with
              | 0 => rfl
              | 1 => rfl
              | 2 => rfl
              | 3 => rfl) }
      attc := fun _ => rfl
      relc := fun _ => rfl
      arc := fun _ => rfl
      kwc1 := fun _ => rfl
      kwc2 := fun _ => rfl }
  right := by decide +kernel

end Sys2Proof.Tests
end

/-! The decoder's rule for a complete packet, and the worked encodings of 30 R102. The encodings hold for every operand
word; the words of the decimals are separate facts about binary32. -/

namespace Sys2Proof

-- As in the tests: each thread of parallel elaboration reserves a stack, and the check bounds their sum.
set_option Elab.async false

/-! ### The decoder -/

/-- All that `decode` accepts: a header, as many operand words as its OPC calls for, and any words after them, where
header and operands decode as a packet (30 R90, R95). -/
theorem decode_eq_ok_iff {ws : List Word} {i : Instr} :
    decode ws = .ok i ↔ ∃ h ops rest, ws = h :: (ops ++ rest) ∧ ops.length = nops (opcOf h) ∧
      decodePacket h ops = some i := by
  constructor
  · intro hd
    unfold decode at hd
    split at hd
    · cases hd
    next h ops rest hs =>
      obtain ⟨hws, hlen⟩ := splitPacket_eq_some.1 hs
      split at hd
      next hp => cases hd; exact ⟨h, ops, rest, hws, hlen, hp⟩
      · cases hd
  · rintro ⟨h, ops, rest, hws, hlen, hp⟩
    simp only [decode, splitPacket_eq_some.2 ⟨hws, hlen⟩, hp]

/-- A header put together within the widths of its fields decodes, with its operands, by those fields (30 R91). -/
theorem decodePacket_headerWord {opc ch sub imm : Nat} (ops : List Word) (h1 : opc < 256) (h2 : ch < 16)
    (h3 : sub < 16) (h4 : imm < 65536) :
    decodePacket (headerWord opc ch sub imm) ops = decodeFields opc ch sub imm ops := by
  rw [decodePacket, opcOf_headerWord h1 h2 h3 h4, chOf_headerWord h1 h2 h3 h4, subOf_headerWord h1 h2 h3 h4,
    immOf_headerWord h1 h2 h3 h4]

/-- A header put together from its fields and followed by exactly its operands is decoded by those fields. -/
theorem decode_headerWord_cons {opc ch sub imm : Nat} {ops : List Word} {i : Instr} (h1 : opc < 256) (h2 : ch < 16)
    (h3 : sub < 16) (h4 : imm < 65536) (hlen : ops.length = nops opc) (hi : decodeFields opc ch sub imm ops = some i) :
    decode (headerWord opc ch sub imm :: ops) = .ok i :=
  decode_eq_ok_iff.2 ⟨_, ops, [], by rw [List.append_nil], by rw [opcOf_headerWord h1 h2 h3 h4, hlen],
    by rw [decodePacket_headerWord ops h1 h2 h3 h4, hi]⟩

/-! ### The words of the decimals of R102 -/

theorem NumFormat.binary32_ofRat_one : NumFormat.binary32.ofRat 1 1 = ⟨0x3F800000⟩ := by decide +kernel

theorem NumFormat.binary32_ofRat_eighty : NumFormat.binary32.ofRat 80 1 = ⟨0x42A00000⟩ := by decide +kernel

theorem NumFormat.binary32_ofRat_48000 : NumFormat.binary32.ofRat 48000 1 = ⟨0x473B8000⟩ := by decide +kernel

/-! ### The commands of R102, with any operand words -/

/-- `ws` are the words of `i` and `i` is the command of `ws`: an encoding read both ways. -/
def EncodesBothWays (i : Instr) (ws : List Word) : Prop := encode i = ws ∧ decode ws = .ok i

/-- An encoding holds both ways where the header's fields are those the encoder writes and the decoder reads. -/
theorem encodesBothWays_of_fields (opc ch sub imm : Nat) {h : Word} {ops : List Word} {i : Instr}
    (hwidths : opc < 256 ∧ ch < 16 ∧ sub < 16 ∧ imm < 65536) (hh : headerWord opc ch sub imm = h)
    (he : encode i = headerWord opc ch sub imm :: ops) (hlen : ops.length = nops opc)
    (hi : decodeFields opc ch sub imm ops = some i) : EncodesBothWays i (h :: ops) := by
  obtain ⟨h1, h2, h3, h4⟩ := hwidths
  subst hh
  exact ⟨he, decode_headerWord_cons h1 h2 h3 h4 hlen hi⟩

/-- OPC 0x20, CH = 1 in bit 20, t = 1 in bit 8, o = 4 in bits 3:0. -/
theorem chSetp_encodesBothWays (f : NUM) :
    EncodesBothWays (.chSetp .ch1 .highPass 4 f) [0x20100104, f.bits] :=
  encodesBothWays_of_fields 0x20 1 0 (2 ^ 8 + 4) (by decide) rfl rfl rfl rfl

theorem bqStep_encodesBothWays (x : NUM) : EncodesBothWays (.bqStep .ch0 x) [0x11000000, x.bits] :=
  encodesBothWays_of_fields 0x11 0 0 0 (by decide) rfl rfl rfl rfl

theorem rdr_encodesBothWays : EncodesBothWays (.rdr 0x0402) [0x04000402] :=
  encodesBothWays_of_fields 0x04 0 0 0x0402 (by decide) rfl rfl rfl rfl

/-- `RESET.ALL`: all four bits of the mask, in SUB. -/
theorem resetAll_encodesBothWays : EncodesBothWays (.reset 15) [0x020F0000] :=
  encodesBothWays_of_fields 0x02 0 15 0 (by decide) rfl rfl rfl rfl

theorem prepare_encodesBothWays (fs : NUM) (bs : U32) : EncodesBothWays (.prepare fs bs) [0x01000000, fs.bits, bs] :=
  encodesBothWays_of_fields 0x01 0 0 0 (by decide) rfl rfl rfl rfl

/-- Settles O5: the five encodings hold for any operand words, and binary32 gives the words of the decimals. -/
theorem workedEncodingsAreThoseOfTheSpec : Obligations.WorkedEncodingsAreThoseOfTheSpec := by
  unfold Obligations.WorkedEncodingsAreThoseOfTheSpec
  simp only [NumFormat.binary32_ofRat_one, NumFormat.binary32_ofRat_eighty, NumFormat.binary32_ofRat_48000]
  obtain ⟨chSetpEncode, chSetpDecode⟩ := chSetp_encodesBothWays ⟨0x42A00000⟩
  obtain ⟨bqStepEncode, bqStepDecode⟩ := bqStep_encodesBothWays ⟨0x3F800000⟩
  obtain ⟨rdrEncode, rdrDecode⟩ := rdr_encodesBothWays
  obtain ⟨resetEncode, resetDecode⟩ := resetAll_encodesBothWays
  obtain ⟨prepareEncode, prepareDecode⟩ := prepare_encodesBothWays ⟨0x473B8000⟩ 0x00000200
  exact ⟨chSetpEncode, chSetpDecode, bqStepEncode, bqStepDecode, rdrEncode, rdrDecode, resetEncode, resetDecode,
    prepareEncode, prepareDecode⟩

end Sys2Proof

/-! BQ.RST (41 R143): its two headers, and its effect in a prepared state. -/

namespace Sys2Proof.Machine

/-! ### The words of BQ.RST -/

theorem encode_bqRst_ch0 : encode (.bqRst .ch0) = [0x12000000] := rfl

/-- The channel stands in bit 20. -/
theorem encode_bqRst_ch1 : encode (.bqRst .ch1) = [0x12100000] := rfl

/-! ### The effect of BQ.RST -/

theorem exec_bqRst (c : Chan) (s : State) : exec (.bqRst c) s = execBqRst c s := rfl

/-- After an accepted PREPARE, BQ.RST clears the section of its channel and writes nothing else. -/
theorem exec_bqRst_of_prep {s : State} (c : Chan) (h : s.status.prep = true) :
    exec (.bqRst c) s = .next { s with bq := s.bq.set c (clearBiquad (s.bq.get c)) } := by
  rw [exec_bqRst, execBqRst, whenPrepared_of_prep h]

/-- A cleared section: the set it had, and four delay words of 0. -/
theorem clearBiquad_eq_zeroWords (b : Biquad) :
    clearBiquad b = { coef := b.coef, st := { x1 := ⟨0⟩, x2 := ⟨0⟩, y1 := ⟨0⟩, y2 := ⟨0⟩ } } := rfl

/-- Settles O31: the headers channel by channel; the effect is that of an accepted command, on a cleared section. -/
theorem bqRstZeroesTheDelayLine : Obligations.BqRstZeroesTheDelayLine := by
  unfold Obligations.BqRstZeroesTheDelayLine
  intro s c hprep
  constructor
  · cases c with
    | ch0 => exact encode_bqRst_ch0
    | ch1 => exact encode_bqRst_ch1
  · rw [exec_bqRst_of_prep c hprep, clearBiquad_eq_zeroWords]

end Sys2Proof.Machine

/-! CH.EN and CH.RST (42 R152, R154): their headers channel by channel, and their effect in a prepared state. -/

namespace Sys2Proof

/-! ### The immediate field -/

/-- The immediate is the lowest field of a header, so it is added to the header without one (30 R91). -/
theorem headerWord_eq_add_imm (opc ch sub imm : Nat) :
    headerWord opc ch sub imm = headerWord opc ch sub 0 + BitVec.ofNat 32 imm := by
  rw [headerWord, BitVec.ofNat_add, headerWord, Nat.add_zero]

theorem ofNat_bit (b : Bool) : BitVec.ofNat 32 (bit b) = if b then 1 else 0 := by
  cases b <;> rfl

end Sys2Proof

namespace Sys2Proof.Machine

/-! ### The words of CH.EN and CH.RST -/

/-- The flag stands in bit 0, which is clear in the rest of the header. -/
theorem encode_chEn (c : Chan) (en : Bool) :
    encode (.chEn c en) = [headerWord 0x21 c.code 0 0 + if en then 1 else 0] := by
  rw [← ofNat_bit, ← headerWord_eq_add_imm, encode]

theorem encode_chEn_ch0 (en : Bool) : encode (.chEn .ch0 en) = [0x21000000 + if en then 1 else 0] :=
  encode_chEn .ch0 en

/-- The channel stands in bit 20. -/
theorem encode_chEn_ch1 (en : Bool) : encode (.chEn .ch1 en) = [0x21100000 + if en then 1 else 0] :=
  encode_chEn .ch1 en

theorem encode_chRst_ch0 : encode (.chRst .ch0) = [0x23000000] := rfl

theorem encode_chRst_ch1 : encode (.chRst .ch1) = [0x23100000] := rfl

/-! ### The effect of CH.EN -/

theorem exec_chEn (c : Chan) (en : Bool) (s : State) : exec (.chEn c en) s = execChEn c en s := rfl

/-- After an accepted PREPARE, CH.EN writes the flag of its chain and nothing else. -/
theorem exec_chEn_of_prep {s : State} (c : Chan) (en : Bool) (h : s.status.prep = true) :
    exec (.chEn c en) s = .next { s with ch := s.ch.set c { s.ch.get c with en := en } } := by
  rw [exec_chEn, execChEn, whenPrepared_of_prep h]

/-- Settles O35: the headers channel by channel; the effect is that of an accepted command. -/
theorem chEnWritesTheFlagOnly : Obligations.ChEnWritesTheFlagOnly := by
  unfold Obligations.ChEnWritesTheFlagOnly
  intro s c en hprep
  constructor
  · cases c with
    | ch0 => exact encode_chEn_ch0 en
    | ch1 => exact encode_chEn_ch1 en
  · exact exec_chEn_of_prep c en hprep

/-! ### The effect of CH.RST -/

theorem exec_chRst (c : Chan) (s : State) : exec (.chRst c) s = execChRst c s := rfl

/-- After an accepted PREPARE, CH.RST clears every stage of its chain, with no reference to ORDER, and writes nothing
else. -/
theorem exec_chRst_of_prep {s : State} (c : Chan) (h : s.status.prep = true) :
    exec (.chRst c) s = .next
      { s with ch := s.ch.set c { s.ch.get c with stage := (s.ch.get c).stage.map clearBiquad } } := by
  rw [exec_chRst, execChRst, whenPrepared_of_prep h, clearChain]

/-- Settles O37: the headers channel by channel; the stages after the command are the cleared ones, each of which keeps
its set and holds four delay words of 0. -/
theorem chRstZeroesAllFourStages : Obligations.ChRstZeroesAllFourStages := by
  unfold Obligations.ChRstZeroesAllFourStages
  intro s c hprep
  constructor
  · cases c with
    | ch0 => exact encode_chRst_ch0
    | ch1 => exact encode_chRst_ch1
  · refine ⟨_, exec_chRst_of_prep c hprep, fun i => ?_⟩
    rw [Four.get_map, clearBiquad_eq_zeroWords]

end Sys2Proof.Machine

/-! DYN.AUTO (43 R176): its header, and its effect in a prepared state. -/

namespace Sys2Proof.Machine

/-! ### The words of DYN.AUTO -/

theorem headerWord_dynAuto : headerWord 0x31 0 0 0 = 0x31000000 := rfl

/-- The flag stands in bit 0, which is clear in the rest of the header. -/
theorem encode_dynAuto (en : Bool) : encode (.dynAuto en) = [0x31000000 + if en then 1 else 0] := by
  rw [← ofNat_bit, ← headerWord_dynAuto, ← headerWord_eq_add_imm, encode]

/-! ### The effect of DYN.AUTO -/

theorem exec_dynAuto (en : Bool) (s : State) : exec (.dynAuto en) s = execDynAuto en s := rfl

/-- After an accepted PREPARE, DYN.AUTO writes its flag and nothing else: both slow copies keep their values. -/
theorem exec_dynAuto_of_prep {s : State} (en : Bool) (h : s.status.prep = true) :
    exec (.dynAuto en) s = .next { s with dyn := { s.dyn with auto := en } } := by
  rw [exec_dynAuto, execDynAuto, whenPrepared_of_prep h]

/-- Settles O40: the header with its flag bit; the effect is that of an accepted command. -/
theorem dynAutoWritesTheFlagOnly : Obligations.DynAutoWritesTheFlagOnly := by
  unfold Obligations.DynAutoWritesTheFlagOnly
  intro s en hprep
  exact ⟨encode_dynAuto en, exec_dynAuto_of_prep en hprep⟩

end Sys2Proof.Machine

/-! RSTI (45 R228): its header, and its effect in a prepared state. -/

namespace Sys2Proof.Machine

/-! ### The word of RSTI -/

/-- OPC 0x03, with no field and no operand word. -/
theorem encode_rsti : encode .rsti = [0x03000000] := rfl

/-! ### What RSTI clears -/

/-- An emptied history: no block values and a count of 0. The filters, the windows and the partial block are kept. -/
theorem clearHistory_eq_empty (m : Meter) : clearHistory m = { m with blkMS := [], blkLU := [], n := 0 } := rfl

/-- LUFS0 is the loudness of a mean square of 0 (10 R53). -/
theorem lufs0_eq_lufs_zero (k : Params) : lufs0 k = lufs k .zero := rfl

/-! ### The effect of RSTI -/

theorem exec_rsti (s : State) : exec .rsti s = execRsti s := rfl

/-- After an accepted PREPARE, RSTI empties the history, puts INTEG, LRA and DR to their values for an empty history,
clears BLKFULL, and writes nothing else. -/
theorem exec_rsti_of_prep {s : State} (h : s.status.prep = true) :
    exec .rsti s = .next
      { s with
        status := { s.status with blkfull := false }
        lm := clearHistory s.lm
        ro := { s.ro with integ := lufs0 s.cfg, lra := .zero, dr := .zero } } := by
  rw [exec_rsti, execRsti, whenPrepared_of_prep h, State.setBlkfull]

/-- Settles O28: the header; the effect is that of an accepted command, with the emptied history and LUFS0 spelled
out. -/
theorem rstiClearsTheHistoryOnly : Obligations.RstiClearsTheHistoryOnly := by
  unfold Obligations.RstiClearsTheHistoryOnly
  intro s hprep
  constructor
  · exact encode_rsti
  · rw [exec_rsti_of_prep hprep, clearHistory_eq_empty, lufs0_eq_lufs_zero]

end Sys2Proof.Machine

/-! NOP (46 R250): its header, and its effect in every state, prepared or not. -/

namespace Sys2Proof.Machine

/-! ### The word of NOP -/

/-- OPC 0x00, with no field and no operand word: the all-zero word. -/
theorem encode_nop : encode .nop = [0x00000000] := rfl

/-! ### The effect of NOP -/

theorem exec_nop (s : State) : exec .nop s = execNop s := rfl

/-- NOP does not wait for an accepted PREPARE: no premise on PREP. -/
theorem exec_nop_eq_next (s : State) : exec .nop s = .next s := by
  rw [exec_nop, execNop]

/-- Settles O25: the header; the effect is the same in every state. -/
theorem nopChangesNothing : Obligations.NopChangesNothing := by
  unfold Obligations.NopChangesNothing
  intro s
  exact ⟨encode_nop, exec_nop_eq_next s⟩

end Sys2Proof.Machine

/-! The decoder and the encoder as inverses (30 R90 to R95): every field of a header is read back, so a command and its
packet determine each other. -/

namespace Sys2Proof

/-! ### The operand forms, by what they accept (30 R92) -/

theorem formZ_eq_some {ok : Bool} {ops : List Word} {i j : Instr} :
    formZ ok ops i = some j ↔ ops = [] ∧ ok = true ∧ j = i := by
  cases ops <;> simp [formZ, eq_comm]

theorem formS_eq_some {ok : Bool} {ops : List Word} {f : NUM → Instr} {j : Instr} :
    formS ok ops f = some j ↔ ∃ a, ops = [a] ∧ ok = true ∧ j = f ⟨a⟩ := by
  match ops with
  | [] => simp [formS]
  | [a] => simp [formS, eq_comm]
  | a :: b :: more => simp [formS]

theorem formD_eq_some {ok : Bool} {ops : List Word} {f : NUM → Word → Instr} {j : Instr} :
    formD ok ops f = some j ↔ ∃ a b, ops = [a, b] ∧ ok = true ∧ j = f ⟨a⟩ b := by
  match ops with
  | [] => simp [formD]
  | [a] => simp [formD]
  | [a, b] => simp [formD, eq_comm]
  | a :: b :: c :: more => simp [formD]

theorem formQ_eq_some {ok : Bool} {ops : List Word} {f : NUM → NUM → NUM → NUM → NUM → Instr} {j : Instr} :
    formQ ok ops f = some j ↔
      ∃ a b c d e, ops = [a, b, c, d, e] ∧ ok = true ∧ j = f ⟨a⟩ ⟨b⟩ ⟨c⟩ ⟨d⟩ ⟨e⟩ := by
  match ops with
  | [] => simp [formQ]
  | [a] => simp [formQ]
  | [a, b] => simp [formQ]
  | [a, b, c] => simp [formQ]
  | [a, b, c, d] => simp [formQ]
  | [a, b, c, d, e] => simp [formQ, eq_comm]
  | a :: b :: c :: d :: e :: g :: more => simp [formQ]

/-- A channel field names a channel exactly where it is that channel's code (30 R93 f). -/
theorem chanOf_eq_some {ch : Nat} {c : Chan} : chanOf ch = some c ↔ ch = c.code := by
  match ch with
  | 0 => cases c <;> simp [chanOf, Chan.code]
  | 1 => cases c <;> simp [chanOf, Chan.code]
  | n + 2 => cases c <;> simp [chanOf, Chan.code]

/-! ### Decoding what was encoded -/

/-- The header fields and operand words of `i` decode to it: what each row of 30 R94 has to satisfy. -/
structure PacketOf (i : Instr) (opc ch sub imm : Nat) (ops : List Word) : Prop where
  words : encode i = headerWord opc ch sub imm :: ops
  opcFits : opc < 256
  chFits : ch < 16
  subFits : sub < 16
  immFits : imm < 65536
  length : ops.length = nops opc
  decodes : decodeFields opc ch sub imm ops = some i

theorem PacketOf.decodePacket {i : Instr} {opc ch sub imm : Nat} {ops : List Word}
    (h : PacketOf i opc ch sub imm ops) :
    encode i = headerWord opc ch sub imm :: ops ∧ ops.length = nops (opcOf (headerWord opc ch sub imm)) ∧
      decodePacket (headerWord opc ch sub imm) ops = some i := by
  refine ⟨h.words, ?_, ?_⟩
  · rw [opcOf_headerWord h.opcFits h.chFits h.subFits h.immFits, h.length]
  · rw [decodePacket_headerWord ops h.opcFits h.chFits h.subFits h.immFits, h.decodes]

/-- A command without a field: everything about its packet is evaluated. -/
theorem PacketOf.ofOpc {i : Instr} {opc sub : Nat} {ops : List Word} (he : encode i = headerWord opc 0 sub 0 :: ops)
    (ho : opc < 256) (hs : sub < 16) (hl : ops.length = nops opc) (hd : decodeFields opc 0 sub 0 ops = some i) :
    PacketOf i opc 0 sub 0 ops :=
  ⟨he, ho, by decide, hs, by decide, hl, hd⟩

/-- A command with a channel field and no other: its two headers differ in that field alone. -/
theorem PacketOf.ofChan {i : Instr} {opc : Nat} (c : Chan) {ops : List Word}
    (he : encode i = headerWord opc c.code 0 0 :: ops) (ho : opc < 256) (hl : ops.length = nops opc)
    (hd : decodeFields opc c.code 0 0 ops = some i) : PacketOf i opc c.code 0 0 ops :=
  ⟨he, ho, Nat.lt_trans c.code_lt (by decide), by decide, by decide, hl, hd⟩

theorem decodeFields_reset {units : Nat} (h : units < 16) :
    decodeFields 0x02 0 (units % 16) 0 [] = some (.reset units) := by
  rw [Nat.mod_eq_of_lt h]
  rfl

theorem decodeFields_rdr {addr : Nat} (h : addr < 65536) :
    decodeFields 0x04 0 0 (addr % 65536) [] = some (.rdr addr) := by
  rw [Nat.mod_eq_of_lt h]
  rfl

/-- The type stands in bit 8 of IMM and the order request in bits 3:0, with zeros around them (30 R93 b). -/
theorem decodeFields_chSetp (c : Chan) (ty : FilterType) {orderReq : Nat} (freq : NUM) (h : orderReq < 16) :
    decodeFields 0x20 c.code 0 (ty.code * 2 ^ 8 + orderReq % 16) [freq.bits] =
      some (.chSetp c ty orderReq freq) := by
  have hmod : (ty.code * 2 ^ 8 + orderReq % 16) % 16 = orderReq := by omega
  have htop : (ty.code * 2 ^ 8 + orderReq % 16) / 2 ^ 9 = 0 := by have := ty.code_lt; omega
  have hmid : (ty.code * 2 ^ 8 + orderReq % 16) / 2 ^ 4 % 16 = 0 := by omega
  have hty : (ty.code * 2 ^ 8 + orderReq % 16) / 2 ^ 8 % 2 = ty.code := by have := ty.code_lt; omega
  simp only [decodeFields, chanOf_code, Option.bind_some, formS, hmod, htop, hmid, hty]
  cases ty <;> rfl

theorem decodeFields_chEn (c : Chan) (en : Bool) :
    decodeFields 0x21 c.code 0 (bit en) [] = some (.chEn c en) := by
  cases c <;> cases en <;> rfl

theorem decodeFields_dynAuto (en : Bool) : decodeFields 0x31 0 0 (bit en) [] = some (.dynAuto en) := by
  cases en <;> rfl

/-- Every well-formed command has a packet: its header's fields fit, and they and its operand words decode to it. -/
theorem packetOf_of_wellFormed (i : Instr) (hw : i.wellFormed = true) :
    ∃ opc ch sub imm ops, PacketOf i opc ch sub imm ops := by
  cases i with
  | nop => exact ⟨_, _, _, _, _, .ofOpc rfl (by decide) (by decide) rfl rfl⟩
  | prepare fs bs => exact ⟨_, _, _, _, _, .ofOpc rfl (by decide) (by decide) rfl rfl⟩
  | reset units =>
    exact ⟨_, _, _, _, _, .ofOpc rfl (by decide) (Nat.mod_lt _ (by decide)) rfl
      (decodeFields_reset (of_decide_eq_true hw))⟩
  | rsti => exact ⟨_, _, _, _, _, .ofOpc rfl (by decide) (by decide) rfl rfl⟩
  | rdr addr =>
    exact ⟨_, _, _, _, _, rfl, by decide, by decide, by decide, Nat.mod_lt _ (by decide), rfl,
      decodeFields_rdr (of_decide_eq_true hw)⟩
  | bqSetc c b0 b1 b2 a1 a2 => exact ⟨_, _, _, _, _, .ofChan c rfl (by decide) rfl (by cases c <;> rfl)⟩
  | bqStep c x => exact ⟨_, _, _, _, _, .ofChan c rfl (by decide) rfl (by cases c <;> rfl)⟩
  | bqRst c => exact ⟨_, _, _, _, _, .ofChan c rfl (by decide) rfl (by cases c <;> rfl)⟩
  | chSetp c ty orderReq freq =>
    exact ⟨_, _, _, _, _, rfl, by decide, Nat.lt_trans c.code_lt (by decide), by decide,
      by have := ty.code_lt; omega, rfl, decodeFields_chSetp c ty freq (of_decide_eq_true hw)⟩
  | chEn c en =>
    exact ⟨_, _, _, _, _, rfl, by decide, Nat.lt_trans c.code_lt (by decide), by decide,
      Nat.lt_trans (bit_lt en) (by decide), rfl, decodeFields_chEn c en⟩
  | chStep c x => exact ⟨_, _, _, _, _, .ofChan c rfl (by decide) rfl (by cases c <;> rfl)⟩
  | chRst c => exact ⟨_, _, _, _, _, .ofChan c rfl (by decide) rfl (by cases c <;> rfl)⟩
  | dynThr v => exact ⟨_, _, _, _, _, .ofOpc rfl (by decide) (by decide) rfl rfl⟩
  | dynRat v => exact ⟨_, _, _, _, _, .ofOpc rfl (by decide) (by decide) rfl rfl⟩
  | dynKne v => exact ⟨_, _, _, _, _, .ofOpc rfl (by decide) (by decide) rfl rfl⟩
  | dynAtt v => exact ⟨_, _, _, _, _, .ofOpc rfl (by decide) (by decide) rfl rfl⟩
  | dynRel v => exact ⟨_, _, _, _, _, .ofOpc rfl (by decide) (by decide) rfl rfl⟩
  | dynLnk v => exact ⟨_, _, _, _, _, .ofOpc rfl (by decide) (by decide) rfl rfl⟩
  | dynAuto en =>
    exact ⟨_, _, _, _, _, rfl, by decide, by decide, by decide, Nat.lt_trans (bit_lt en) (by decide), rfl,
      decodeFields_dynAuto en⟩
  | envStep c level => exact ⟨_, _, _, _, _, .ofChan c rfl (by decide) rfl (by cases c <;> rfl)⟩
  | gcEval e => exact ⟨_, _, _, _, _, .ofOpc rfl (by decide) (by decide) rfl rfl⟩
  | dynStep sL sR => exact ⟨_, _, _, _, _, .ofOpc rfl (by decide) (by decide) rfl rfl⟩
  | dynStepm x => exact ⟨_, _, _, _, _, .ofOpc rfl (by decide) (by decide) rfl rfl⟩
  | dynPub => exact ⟨_, _, _, _, _, .ofOpc rfl (by decide) (by decide) rfl rfl⟩
  | kwStep c x => exact ⟨_, _, _, _, _, .ofChan c rfl (by decide) rfl (by cases c <;> rfl)⟩
  | swPush p => exact ⟨_, _, _, _, _, .ofOpc rfl (by decide) (by decide) rfl rfl⟩
  | lmPub => exact ⟨_, _, _, _, _, .ofOpc rfl (by decide) (by decide) rfl rfl⟩
  | giAcc p => exact ⟨_, _, _, _, _, .ofOpc rfl (by decide) (by decide) rfl rfl⟩
  | laOffer ms => exact ⟨_, _, _, _, _, .ofOpc rfl (by decide) (by decide) rfl rfl⟩
  | lmStep xL xR => exact ⟨_, _, _, _, _, .ofOpc rfl (by decide) (by decide) rfl rfl⟩
  | lmStepm x => exact ⟨_, _, _, _, _, .ofOpc rfl (by decide) (by decide) rfl rfl⟩

/-- The packet of a well-formed command, as a step meets it: a header and the operand words it calls for, which decode
to the command. -/
theorem encode_decodePacket (i : Instr) (hw : i.wellFormed = true) :
    ∃ h ops, encode i = h :: ops ∧ ops.length = nops (opcOf h) ∧ decodePacket h ops = some i := by
  obtain ⟨opc, ch, sub, imm, ops, hp⟩ := packetOf_of_wellFormed i hw
  exact ⟨_, ops, hp.decodePacket⟩

/-- Settles O1: a command's packet is complete and decodes to it, so words after it are not looked at. -/
theorem encodedCommandsDecodeToThemselves : Obligations.EncodedCommandsDecodeToThemselves := by
  unfold Obligations.EncodedCommandsDecodeToThemselves
  intro i rest hw
  obtain ⟨h, ops, he, hl, hd⟩ := encode_decodePacket i hw
  exact decode_eq_ok_iff.2 ⟨h, ops, rest, by rw [he, List.cons_append], hl, hd⟩

/-! ### Encoding what was decoded -/

theorem opcOf_lt (h : Word) : opcOf h < 256 := by
  have := h.isLt
  unfold opcOf
  omega

theorem chOf_lt (h : Word) : chOf h < 16 := Nat.mod_lt _ (by decide)

theorem subOf_lt (h : Word) : subOf h < 16 := Nat.mod_lt _ (by decide)

theorem immOf_lt (h : Word) : immOf h < 65536 := Nat.mod_lt _ (by decide)

/-- The flag that a one-bit immediate holds is written back as that immediate. -/
theorem bit_of_div_two_eq_zero {imm : Nat} (h : imm / 2 = 0) : bit (imm % 2 == 1) = imm := by
  have : imm = 0 ∨ imm = 1 := by omega
  rcases this with rfl | rfl <;> rfl

/-- The immediate of CH.SETP with zeros in bits 15:9 and 7:4 is its type bit and its order request. -/
theorem chSetp_imm {imm : Nat} (hhi : imm / 2 ^ 9 = 0) (hmid : imm / 2 ^ 4 % 16 = 0) :
    (if imm / 2 ^ 8 % 2 = 1 then FilterType.highPass else .lowPass).code * 2 ^ 8 + imm % 16 % 16 = imm := by
  split <;> simp only [FilterType.code] <;> omega

/-- `i` is a well-formed command whose words are the header with these fields and then `ops`. -/
def EncodesAs (i : Instr) (opc ch sub imm : Nat) (ops : List Word) : Prop :=
  encode i = headerWord opc ch sub imm :: ops ∧ i.wellFormed = true

/-- The six parameter commands of OPC 0x30, by SUB. -/
theorem encodesAs_of_dynParam {sub : Nat} {ok : Bool} {ops : List Word} {i : Instr}
    (hd : dynParam sub ok ops = some i) : ok = true ∧ EncodesAs i 0x30 0 sub 0 ops := by
  unfold dynParam at hd
  split at hd
  case h_7 => cases hd
  all_goals
    obtain ⟨a, rfl, hok, rfl⟩ := formS_eq_some.1 hd
    exact ⟨hok, rfl, rfl⟩

/-- A command decoded from fields within their widths is put together from the same fields and operand words: one case
for each OPC of 30 R94. -/
theorem encodesAs_of_decodeFields {opc ch sub imm : Nat} {ops : List Word} {i : Instr} (hs : sub < 16)
    (hi : imm < 65536) (hd : decodeFields opc ch sub imm ops = some i) : EncodesAs i opc ch sub imm ops := by
  unfold decodeFields at hd
  split at hd
  case h_13 =>
    obtain ⟨hok, he⟩ := encodesAs_of_dynParam hd
    simp only [Bool.and_eq_true, beq_iff_eq] at hok
    obtain ⟨rfl, rfl⟩ := hok
    exact he
  all_goals
    simp only [Option.bind_eq_some_iff, chanOf_eq_some, formZ_eq_some, formS_eq_some, formD_eq_some, formQ_eq_some,
      Bool.and_eq_true, beq_iff_eq, reduceCtorEq] at hd
  -- RESET, RDR, CH.SETP, CH.EN, DYN.AUTO: a field of the header is an operand
  case h_3 =>
    obtain ⟨rfl, ⟨rfl, rfl⟩, rfl⟩ := hd
    exact ⟨by rw [encode, Nat.mod_eq_of_lt hs], decide_eq_true hs⟩
  case h_5 =>
    obtain ⟨rfl, ⟨rfl, rfl⟩, rfl⟩ := hd
    exact ⟨by rw [encode, Nat.mod_eq_of_lt hi], decide_eq_true hi⟩
  case h_9 =>
    obtain ⟨c, rfl, a, rfl, ⟨⟨rfl, hhi⟩, hmid⟩, rfl⟩ := hd
    exact ⟨by rw [encode, chSetp_imm hhi hmid], decide_eq_true (Nat.mod_lt _ (by decide))⟩
  case h_10 =>
    obtain ⟨c, rfl, rfl, ⟨rfl, himm⟩, rfl⟩ := hd
    exact ⟨by rw [encode, bit_of_div_two_eq_zero himm], rfl⟩
  case h_14 =>
    obtain ⟨rfl, ⟨⟨rfl, rfl⟩, himm⟩, rfl⟩ := hd
    exact ⟨by rw [encode, bit_of_div_two_eq_zero himm], rfl⟩
  -- no field, and zero, one or two operand words
  case h_1 | h_4 | h_19 | h_26 =>
    obtain ⟨rfl, ⟨⟨rfl, rfl⟩, rfl⟩, rfl⟩ := hd
    exact ⟨rfl, rfl⟩
  case h_16 | h_18 | h_21 | h_22 | h_23 | h_25 =>
    obtain ⟨a, rfl, ⟨⟨rfl, rfl⟩, rfl⟩, rfl⟩ := hd
    exact ⟨rfl, rfl⟩
  case h_2 | h_17 | h_24 =>
    obtain ⟨a, b, rfl, ⟨⟨rfl, rfl⟩, rfl⟩, rfl⟩ := hd
    exact ⟨rfl, rfl⟩
  -- a channel, and zero, one or five operand words
  case h_8 | h_12 =>
    obtain ⟨c, rfl, rfl, ⟨rfl, rfl⟩, rfl⟩ := hd
    exact ⟨rfl, rfl⟩
  case h_7 | h_11 | h_15 | h_20 =>
    obtain ⟨c, rfl, a, rfl, ⟨rfl, rfl⟩, rfl⟩ := hd
    exact ⟨rfl, rfl⟩
  case h_6 =>
    obtain ⟨c, rfl, b0, b1, b2, a1, a2, rfl, ⟨rfl, rfl⟩, rfl⟩ := hd
    exact ⟨rfl, rfl⟩

/-- Settles O2: the header is put together again from the fields the command was decoded from. -/
theorem decodedPacketsEncodeBack : Obligations.DecodedPacketsEncodeBack := by
  unfold Obligations.DecodedPacketsEncodeBack
  intro h ops i hd
  obtain ⟨he, hw⟩ := encodesAs_of_decodeFields (subOf_lt h) (immOf_lt h) hd
  exact ⟨by rw [he, headerWord_of_fields], hw⟩

end Sys2Proof

/-! The opcode map of 30 R94 as a table of match and mask, read field by field: which headers a row selects, and that the
decoder accepts exactly those. -/

namespace Sys2Proof

/-! ### A row's condition, field by field -/

theorem opcOf_and (h m : Word) : opcOf (h &&& m) = opcOf h &&& opcOf m := by
  simp only [opcOf, BitVec.toNat_and, Nat.and_div_two_pow]

theorem chOf_and (h m : Word) : chOf (h &&& m) = chOf h &&& chOf m := by
  simp only [chOf, BitVec.toNat_and, Nat.and_div_two_pow, show (16 : Nat) = 2 ^ 4 from rfl, Nat.and_mod_two_pow]

theorem subOf_and (h m : Word) : subOf (h &&& m) = subOf h &&& subOf m := by
  simp only [subOf, BitVec.toNat_and, Nat.and_div_two_pow, show (16 : Nat) = 2 ^ 4 from rfl, Nat.and_mod_two_pow]

theorem immOf_and (h m : Word) : immOf (h &&& m) = immOf h &&& immOf m := by
  simp only [immOf, BitVec.toNat_and, Nat.and_mod_two_pow]

/-- Two headers are the same word when their four fields are (30 R91). -/
theorem header_ext {h h' : Word} (ho : opcOf h = opcOf h') (hc : chOf h = chOf h') (hs : subOf h = subOf h')
    (hi : immOf h = immOf h') : h = h' := by
  rw [← headerWord_of_fields h, ho, hc, hs, hi, headerWord_of_fields]

/-- A row selects a header when each field, under the row's mask, is that of the row. -/
theorem Row.selects_iff (r : Row) (h : Word) :
    r.selects h = true ↔
      opcOf h &&& opcOf r.mask = opcOf r.bits ∧ chOf h &&& chOf r.mask = chOf r.bits ∧
        subOf h &&& subOf r.mask = subOf r.bits ∧ immOf h &&& immOf r.mask = immOf r.bits := by
  rw [Row.selects, beq_iff_eq, ← opcOf_and, ← chOf_and, ← subOf_and, ← immOf_and]
  constructor
  · intro he
    rw [he]
    exact ⟨rfl, rfl, rfl, rfl⟩
  · rintro ⟨ho, hc, hs, hi⟩
    exact header_ext ho hc hs hi

/-! ### The masks of the table -/

/-- OPC is compared whole. -/
theorem and_255_of_lt {x : Nat} (h : x < 256) : x &&& 255 = x :=
  (Nat.and_two_pow_sub_one_eq_mod _ 8).trans (Nat.mod_eq_of_lt h)

/-- A field of four bits compared whole. -/
theorem and_15_of_lt {x : Nat} (h : x < 16) : x &&& 15 = x :=
  (Nat.and_two_pow_sub_one_eq_mod _ 4).trans (Nat.mod_eq_of_lt h)

/-- A channel field names a channel: only its lowest bit may be set. -/
theorem and_14_eq_zero {x : Nat} (h : x < 16) : x &&& 14 = 0 ↔ x < 2 := by
  interval_cases x <;> decide

/-- An immediate compared whole. -/
theorem and_65535_of_lt {x : Nat} (h : x < 65536) : x &&& 65535 = x :=
  (Nat.and_two_pow_sub_one_eq_mod _ 16).trans (Nat.mod_eq_of_lt h)

/-- An immediate with a flag in bit 0 and zeros above. -/
theorem and_65534_eq_zero {x : Nat} (h : x < 65536) : x &&& 65534 = 0 ↔ x / 2 = 0 := by
  constructor
  · intro h0
    have hdiv : x / 2 &&& (2 ^ 15 - 1) = 0 := by
      have := congrArg (· / 2 ^ 1) h0
      rwa [Nat.and_div_two_pow] at this
    rw [Nat.and_two_pow_sub_one_eq_mod] at hdiv
    omega
  · intro h0
    have : x = 0 ∨ x = 1 := by omega
    rcases this with rfl | rfl <;> rfl

/-- The immediate of CH.SETP: zeros in bits 15:9 and 7:4. -/
theorem and_65264_eq_zero {x : Nat} (h : x < 65536) :
    x &&& 65264 = 0 ↔ x / 2 ^ 9 = 0 ∧ x / 2 ^ 4 % 16 = 0 := by
  constructor
  · intro h0
    have hhi : x / 2 ^ 9 &&& (2 ^ 7 - 1) = 0 := by
      have := congrArg (· / 2 ^ 9) h0
      rwa [Nat.and_div_two_pow] at this
    have hmid : x / 2 ^ 4 % 2 ^ 4 &&& (2 ^ 4 - 1) = 0 := by
      have := congrArg (· / 2 ^ 4 % 2 ^ 4) h0
      rwa [Nat.and_div_two_pow, Nat.and_mod_two_pow] at this
    rw [Nat.and_two_pow_sub_one_eq_mod] at hhi hmid
    omega
  · rintro ⟨hhi, hmid⟩
    have hx : x < 16 ∨ (256 ≤ x ∧ x < 272) := by omega
    rcases hx with hx | ⟨hlo, hx⟩ <;> interval_cases x <;> rfl

/-! ### Legal headers -/

theorem formZ_isSome {ok : Bool} {ops : List Word} {i : Instr} (hl : ops.length = 0) :
    (formZ ok ops i).isSome = ok := by
  rw [List.length_eq_zero_iff.1 hl]
  cases ok <;> rfl

theorem formS_isSome {ok : Bool} {ops : List Word} {f : NUM → Instr} (hl : ops.length = 1) :
    (formS ok ops f).isSome = ok := by
  obtain ⟨a, rfl⟩ := List.length_eq_one_iff.1 hl
  cases ok <;> rfl

theorem formD_isSome {ok : Bool} {ops : List Word} {f : NUM → Word → Instr} (hl : ops.length = 2) :
    (formD ok ops f).isSome = ok := by
  obtain ⟨a, b, rfl⟩ := List.length_eq_two.1 hl
  cases ok <;> rfl

theorem formQ_isSome {ok : Bool} {ops : List Word} {f : NUM → NUM → NUM → NUM → NUM → Instr}
    (hl : ops.length = 5) : (formQ ok ops f).isSome = ok := by
  match ops, hl with
  | [a, b, c, d, e], _ => cases ok <;> rfl

/-- The six values of SUB that OPC 0x30 has. -/
theorem dynParam_isSome {sub : Nat} {ok : Bool} {ops : List Word} (hl : ops.length = 1) :
    (dynParam sub ok ops).isSome = (ok && decide (sub < 6)) := by
  match sub with
  | 0 | 1 | 2 | 3 | 4 | 5 => simp [dynParam, formS_isSome hl]
  | n + 6 => simp [dynParam]

/-- A command with a channel field decodes where the field names a channel and the rest is legal. -/
theorem bind_chanOf_isSome {ch : Nat} {f : Chan → Option Instr} {ok : Bool} (hf : ∀ c, (f c).isSome = ok) :
    ((chanOf ch).bind f).isSome = (decide (ch < 2) && ok) := by
  match ch with
  | 0 => exact hf .ch0
  | 1 => exact hf .ch1
  | n + 2 => simp [chanOf]

/-- The rows of the table, as conditions on the four fields of a header. -/
def RowHasFields (opc ch sub imm : Nat) (r : Row) : Prop :=
  opc &&& opcOf r.mask = opcOf r.bits ∧ ch &&& chOf r.mask = chOf r.bits ∧
    sub &&& subOf r.mask = subOf r.bits ∧ imm &&& immOf r.mask = immOf r.bits

theorem headerLegal_iff (h : Word) :
    headerLegal h = true ↔ ∃ r ∈ opcodeMap, RowHasFields (opcOf h) (chOf h) (subOf h) (immOf h) r := by
  simp only [headerLegal, List.any_eq_true, Row.selects_iff, RowHasFields]

/-- OPC by OPC, the rows of the table and the decoder put the same conditions on the other fields. -/
theorem decodeFields_isSome_iff {opc ch sub imm : Nat} {ops : List Word} (ho : opc < 256) (hc : ch < 16)
    (hs : sub < 16) (hi : imm < 65536) (hl : ops.length = nops opc) :
    (decodeFields opc ch sub imm ops).isSome = true ↔ ∃ r ∈ opcodeMap, RowHasFields opc ch sub imm r := by
  simp only [opcodeMap, List.mem_cons, List.not_mem_nil, or_false, exists_eq_or_imp, exists_eq_left, RowHasFields]
  simp [opcOf, chOf, subOf, immOf, and_255_of_lt ho, and_15_of_lt hc, and_14_eq_zero hc, and_15_of_lt hs,
    and_65535_of_lt hi, and_65534_eq_zero hi, and_65264_eq_zero hi]
  unfold decodeFields
  split
  case h_27 => simp_all
  all_goals simp only [nops] at hl
  case h_13 =>
    simp [dynParam_isSome hl]
    omega
  case h_1 | h_3 | h_4 | h_5 | h_14 | h_19 | h_26 => simp [formZ_isSome hl, and_assoc]
  case h_16 | h_18 | h_21 | h_22 | h_23 | h_25 => simp [formS_isSome hl, and_assoc]
  case h_2 | h_17 | h_24 => simp [formD_isSome hl, and_assoc]
  case h_8 | h_10 | h_12 =>
    rw [bind_chanOf_isSome fun c => formZ_isSome hl]
    simp [Nat.lt_succ_iff]
  case h_7 | h_9 | h_11 | h_15 | h_20 =>
    rw [bind_chanOf_isSome fun c => formS_isSome hl]
    simp [Nat.lt_succ_iff, and_assoc]
  case h_6 =>
    rw [bind_chanOf_isSome fun c => formQ_isSome hl]
    simp [Nat.lt_succ_iff]

/-- Settles O3: a header's four fields fit their widths, so the row by row comparison applies. -/
theorem headersDecodeExactlyWhenARowMatches : Obligations.HeadersDecodeExactlyWhenARowMatches := by
  unfold Obligations.HeadersDecodeExactlyWhenARowMatches
  intro h ops hl
  rw [headerLegal_iff, decodePacket,
    decodeFields_isSome_iff (opcOf_lt h) (chOf_lt h) (subOf_lt h) (immOf_lt h) hl]

/-- An illegal header decodes to nothing, whatever its operand words. -/
theorem decodePacket_of_illegal {h : Word} {ops : List Word} (hl : ops.length = nops (opcOf h))
    (hi : headerLegal h = false) : decodePacket h ops = none := by
  have hiff := headersDecodeExactlyWhenARowMatches h ops hl
  rw [hi] at hiff
  simpa using hiff

/-- A packet that does not decode has an illegal header. -/
theorem illegal_of_decodePacket {h : Word} {ops : List Word} (hl : ops.length = nops (opcOf h))
    (hd : decodePacket h ops = none) : headerLegal h = false := by
  have hiff := headersDecodeExactlyWhenARowMatches h ops hl
  rw [hd] at hiff
  simpa using hiff

/-! ### No header has two rows -/

/-- Two rows that agree wherever both masks look are the same row: a fact about the table alone. -/
theorem opcodeMap_separated :
    ∀ r ∈ opcodeMap, ∀ r' ∈ opcodeMap, r.bits &&& r'.mask = r'.bits &&& r.mask → r = r' := by
  decide +kernel

/-- A header that two rows select gives them the same bits under both masks. -/
theorem bits_and_mask_comm_of_selects {h : Word} {r r' : Row} (hr : r.selects h = true)
    (hr' : r'.selects h = true) : r.bits &&& r'.mask = r'.bits &&& r.mask := by
  rw [Row.selects, beq_iff_eq] at hr hr'
  rw [← hr, ← hr', BitVec.and_assoc, BitVec.and_assoc, BitVec.and_comm r.mask]

/-- Settles O4: the bits of a header that two rows select are those of both, and no two rows of the table share any. -/
theorem noHeaderMatchesTwoRows : Obligations.NoHeaderMatchesTwoRows := by
  unfold Obligations.NoHeaderMatchesTwoRows
  intro h r r' hm hm' hr hr'
  exact opcodeMap_separated r hm r' hm' (bits_and_mask_comm_of_selects hr hr')

end Sys2Proof

/-! What a command does, said once. A command is accepted or discarded; accepted, it has an effect on the state, and then
answers its response words. Every later proof about a command or a step goes through `exec_eq` and `step_eq_next`. -/

namespace Sys2Proof.Machine

/-! ### Effects and answers -/

/-- The test of 30 R95 step 3: after an accepted PREPARE every command runs, before it the three legal ones. -/
def accepts (s : State) (i : Instr) : Bool := s.status.prep || legalUnprepared i

/-- The "resp" column of 30 R94 by command. -/
def responseCount : Instr → Nat
  | .rdr _ | .bqStep _ _ | .chStep _ _ | .envStep _ _ | .dynStepm _ | .kwStep _ _ => 1
  | .gcEval _ | .dynStep _ _ => 2
  | _ => 0

/-- What an accepted command changes, its response words aside. -/
def effect : Instr → State → State
  | .nop, s => s
  | .prepare fs bs, s => if rateAccepted s.cfg fs then prepared fs bs s else s.setIll
  | .reset units, s => resetUnits units s
  | .rsti, s => State.setBlkfull false
      { s with lm := clearHistory s.lm, ro := { s.ro with integ := lufs0 s.cfg, lra := .zero, dr := .zero } }
  | .rdr addr, s => if (s.regRead addr).isSome then s else s.setIll
  | .bqSetc c b0 b1 b2 a1 a2, s =>
    { s with bq := s.bq.set c { coef := { b0 := b0, b1 := b1, b2 := b2, a1 := a1, a2 := a2 }, st := (s.bq.get c).st } }
  | .bqStep c x, s => { s with bq := s.bq.set c (biquadRun s.cfg.num (s.bq.get c) x).2 }
  | .bqRst c, s => { s with bq := s.bq.set c (clearBiquad (s.bq.get c)) }
  | .chSetp c ty orderReq freq, s =>
    { s with ch := s.ch.set c (setChain s.cfg s.fs ty orderReq freq (s.ch.get c)) }
  | .chEn c en, s => { s with ch := s.ch.set c { s.ch.get c with en := en } }
  | .chStep c x, s => { s with ch := s.ch.set c (chainRun s.cfg.num (s.ch.get c) x).2 }
  | .chRst c, s => { s with ch := s.ch.set c (clearChain (s.ch.get c)) }
  | .dynThr v, s => { s with dyn := { s.dyn with thresh := s.cfg.num.clamp v s.cfg.thrMin s.cfg.thrMax } }
  | .dynRat v, s => { s with dyn := { s.dyn with ratio := s.cfg.num.clamp v s.cfg.ratMin s.cfg.ratMax } }
  | .dynKne v, s => { s with dyn := { s.dyn with knee := s.cfg.num.clamp v s.cfg.kneMin s.cfg.kneMax } }
  | .dynAtt v, s =>
    { s with dyn :=
      { s.dyn with
        attack := s.cfg.num.clamp v s.cfg.attMin s.cfg.attMax
        attc := onePole s.cfg.num s.fs (s.cfg.num.clamp v s.cfg.attMin s.cfg.attMax) } }
  | .dynRel v, s =>
    { s with dyn :=
      { s.dyn with
        release := s.cfg.num.clamp v s.cfg.relMin s.cfg.relMax
        relc := onePole s.cfg.num s.fs (s.cfg.num.clamp v s.cfg.relMin s.cfg.relMax) } }
  | .dynLnk v, s => { s with dyn := { s.dyn with link := s.cfg.num.clamp v s.cfg.lnkMin s.cfg.lnkMax } }
  | .dynAuto en, s => { s with dyn := { s.dyn with auto := en } }
  | .envStep c level, s => { s with dyn := envAdvance s.cfg s.fs s.dyn c level }
  | .gcEval _, s => s
  | .dynStep sL sR, s => { s with dyn := (detect s.cfg s.fs s.dyn sL sR).1 }
  | .dynStepm x, s => { s with dyn := (detect s.cfg s.fs s.dyn x x).1 }
  | .dynPub, s => { s with ro := { s.ro with gr := s.dyn.grmax }, dyn := { s.dyn with grmax := .zero } }
  | .kwStep c x, s => { s with lm := (kwRun s.cfg.num s.lm c x).2 }
  | .swPush p, s => { s with lm := pushPower s.cfg.num s.n400 s.n3s s.lm p }
  | .lmPub, s =>
    { s with ro :=
      { s.ro with
        mom := lufs s.cfg (meanSquare s.cfg.num s.lm.winM)
        st := lufs s.cfg (meanSquare s.cfg.num s.lm.winS) } }
  | .giAcc p, s => gateAcc p s
  | .laOffer ms, s => offerBlock ms s
  | .lmStep xL xR, s => meterSample xL xR s
  | .lmStepm x, s => meterSample x x s

/-- The response words of an accepted command, read in the state before it. -/
def answer : Instr → State → List Word
  | .rdr addr, s => [(s.regRead addr).getD 0]
  | .bqStep c x, s => [(biquadRun s.cfg.num (s.bq.get c) x).1.bits]
  | .chStep c x, s => [(chainRun s.cfg.num (s.ch.get c) x).1.bits]
  | .envStep c level, s => [((envAdvance s.cfg s.fs s.dyn c level).env.get c).bits]
  | .gcEval e, s => [(gcCompute s.cfg s.dyn e).1.bits, (gcCompute s.cfg s.dyn e).2.bits]
  | .dynStep sL sR, s =>
    [(detect s.cfg s.fs s.dyn sL sR).2.1.bits, (detect s.cfg s.fs s.dyn sL sR).2.2.bits]
  | .dynStepm x, s => [(detect s.cfg s.fs s.dyn x x).2.1.bits]
  | .kwStep c x, s => [(kwRun s.cfg.num s.lm c x).1.bits]
  | _, _ => []

theorem answer_length (i : Instr) (s : State) : (answer i s).length = responseCount i := by
  cases i <;> rfl

/-! ### The law of a command -/

theorem accepts_of_legal {s : State} {i : Instr} (h : legalUnprepared i = true) : accepts s i = true := by
  simp [accepts, h]

theorem accepts_of_prep {s : State} (i : Instr) (h : s.status.prep = true) : accepts s i = true := by
  simp [accepts, h]

/-- A command that is legal before PREPARE. -/
theorem exec_eq_of_legal {i : Instr} {s : State} (hl : legalUnprepared i = true)
    (he : exec i s = .next ((effect i s).respond (answer i s))) :
    exec i s = .next
      (if accepts s i then (effect i s).respond (answer i s) else discard (responseCount i) s) := by
  rw [he, accepts_of_legal hl, if_pos rfl]

/-- A command under the PREP test that answers nothing. -/
theorem exec_eq_of_silent {i : Instr} {s : State} (hl : legalUnprepared i = false) (ha : answer i s = [])
    (he : exec i s = whenPrepared (responseCount i) s (effect i s)) :
    exec i s = .next
      (if accepts s i then (effect i s).respond (answer i s) else discard (responseCount i) s) := by
  rw [he, ha, State.respond_nil, whenPrepared, accepts, hl, Bool.or_false]

/-- A command under the PREP test that answers words. -/
theorem exec_eq_of_answering {i : Instr} {s : State} (hl : legalUnprepared i = false)
    (he : exec i s = whenPrepared (responseCount i) s ((effect i s).respond (answer i s))) :
    exec i s = .next
      (if accepts s i then (effect i s).respond (answer i s) else discard (responseCount i) s) := by
  rw [he, whenPrepared, accepts, hl, Bool.or_false]

/-- PREPARE outside the range of rates is a discard that answers nothing: only ILL changes. -/
theorem exec_prepare (fs : NUM) (bs : U32) (s : State) :
    exec (.prepare fs bs) s = .next (effect (.prepare fs bs) s) := by
  simp only [exec, execPrepare, effect, discard, List.replicate_zero, State.respond_nil]

theorem exec_rdr (addr : Nat) (s : State) :
    exec (.rdr addr) s = .next ((effect (.rdr addr) s).respond (answer (.rdr addr) s)) := by
  simp only [exec, execRdr, effect, answer]
  cases s.regRead addr <;> rfl

/-- Every command, in every state: its effect and its answer where it is accepted, else a discard with the zeros of its
row (30 R95 steps 3 and 4). -/
theorem exec_eq (i : Instr) (s : State) :
    exec i s = .next
      (if accepts s i then (effect i s).respond (answer i s) else discard (responseCount i) s) := by
  cases i with
  | nop => exact exec_eq_of_legal rfl ((exec_nop_eq_next s).trans (congrArg _ (State.respond_nil s).symm))
  | prepare fs bs =>
    exact exec_eq_of_legal rfl ((exec_prepare fs bs s).trans (congrArg _ (State.respond_nil _).symm))
  | rdr addr => exact exec_eq_of_legal rfl (exec_rdr addr s)
  | bqStep | chStep | envStep | gcEval | dynStep | dynStepm | kwStep => exact exec_eq_of_answering rfl rfl
  | _ => exact exec_eq_of_silent rfl rfl rfl

theorem exec_of_accepts {i : Instr} {s : State} (h : accepts s i = true) :
    exec i s = .next ((effect i s).respond (answer i s)) := by
  rw [exec_eq, if_pos h]

theorem exec_of_not_accepts {i : Instr} {s : State} (h : accepts s i = false) :
    exec i s = .next (discard (responseCount i) s) := by
  rw [exec_eq, h, if_neg (by decide)]

/-- After an accepted PREPARE every command has its effect. -/
theorem exec_of_prep {s : State} (i : Instr) (h : s.status.prep = true) :
    exec i s = .next ((effect i s).respond (answer i s)) :=
  exec_of_accepts (accepts_of_prep i h)

/-- After an accepted PREPARE a command that answers nothing is its effect. -/
theorem exec_silent_of_prep {s : State} {i : Instr} (ha : answer i s = []) (h : s.status.prep = true) :
    exec i s = .next (effect i s) := by
  rw [exec_of_prep i h, ha, State.respond_nil]

/-- What a command's next state can be. -/
theorem exec_eq_next {i : Instr} {s t : State} (h : exec i s = .next t) :
    (accepts s i = true ∧ t = (effect i s).respond (answer i s)) ∨
    (accepts s i = false ∧ t = discard (responseCount i) s) := by
  rw [exec_eq] at h
  cases ha : accepts s i <;> rw [ha] at h <;> cases h
  · exact .inr ⟨rfl, rfl⟩
  · exact .inl ⟨rfl, rfl⟩

/-! ### The response count of a row -/

theorem opcOfInstr_of_header {i : Instr} {opc ch sub imm : Nat} {ops : List Word}
    (he : encode i = headerWord opc ch sub imm :: ops) (ho : opc < 256) (hc : ch < 16) (hs : sub < 16)
    (hi : imm < 65536) : opcOfInstr i = opc := by
  rw [opcOfInstr, he]
  exact opcOf_headerWord ho hc hs hi

/-- The count of a command is that of its header's OPC. -/
theorem respWords_opcOfInstr (i : Instr) : respWords (opcOfInstr i) = responseCount i := by
  cases i with
  | reset units =>
    rw [opcOfInstr_of_header rfl (by decide) (by decide) (Nat.mod_lt _ (by decide)) (by decide)]
    rfl
  | rdr addr =>
    rw [opcOfInstr_of_header rfl (by decide) (by decide) (by decide) (Nat.mod_lt _ (by decide))]
    rfl
  | chSetp c ty orderReq freq =>
    have himm : ty.code * 2 ^ 8 + orderReq % 16 < 65536 := by have := ty.code_lt; omega
    rw [opcOfInstr_of_header rfl (by decide) (Nat.lt_trans c.code_lt (by decide)) (by decide) himm]
    rfl
  | chEn c en =>
    rw [opcOfInstr_of_header rfl (by decide) (Nat.lt_trans c.code_lt (by decide)) (by decide)
      (Nat.lt_trans (bit_lt en) (by decide))]
    rfl
  | dynAuto en =>
    rw [opcOfInstr_of_header rfl (by decide) (by decide) (by decide) (Nat.lt_trans (bit_lt en) (by decide))]
    rfl
  | bqSetc c | bqStep c | bqRst c | chStep c | chRst c | envStep c | kwStep c => cases c <;> rfl
  | _ => rfl

/-- A decoded command has the OPC of its header. -/
theorem respWords_of_decodePacket {h : Word} {ops : List Word} {i : Instr} (hd : decodePacket h ops = some i) :
    respWords (opcOf h) = responseCount i := by
  obtain ⟨he, -⟩ := decodedPacketsEncodeBack h ops i hd
  rw [← respWords_opcOfInstr, opcOfInstr, he]

/-- Settles O16: a command that is not accepted is discarded, with the count of its row. -/
theorem unpreparedCommandsAreDiscarded : Obligations.UnpreparedCommandsAreDiscarded := by
  unfold Obligations.UnpreparedCommandsAreDiscarded
  intro i s hprep hlegal
  rw [respWords_opcOfInstr, exec_of_not_accepts (by simp [accepts, hprep, hlegal])]

end Sys2Proof.Machine

/-! One step (20 R78, 30 R95, R101, 60 R270): the packet it consumes, the words it answers, and what no step changes. -/

namespace Sys2Proof.Machine

/-! ### What no effect changes -/

@[simp] theorem effect_ports (i : Instr) (s : State) : (effect i s).ports = s.ports := by
  cases i with
  | prepare | rdr => simp only [effect]; split <;> rfl
  | _ => simp [effect]

@[simp] theorem effect_cur (i : Instr) (s : State) : (effect i s).cur = s.cur := by
  cases i with
  | prepare | rdr => simp only [effect]; split <;> rfl
  | _ => simp [effect]

@[simp] theorem effect_turn (i : Instr) (s : State) : (effect i s).turn = s.turn := by
  cases i with
  | prepare | rdr => simp only [effect]; split <;> rfl
  | _ => simp [effect]

@[simp] theorem effect_cfg (i : Instr) (s : State) : (effect i s).cfg = s.cfg := by
  cases i with
  | prepare | rdr => simp only [effect]; split <;> rfl
  | _ => simp [effect]

/-! ### Flags of the meter's operations -/

@[simp] theorem meterSample_status_prep (xL xR : NUM) (s : State) :
    (meterSample xL xR s).status.prep = s.status.prep := by
  simp [meterSample]

@[simp] theorem meterSample_status_ill (xL xR : NUM) (s : State) :
    (meterSample xL xR s).status.ill = s.status.ill := by
  simp [meterSample]

/-! ### PREP and ILL (10 R32) -/

/-- The commands that are rejected on their operand: a rate out of range (cause X3), an unlisted address (cause X4). -/
def rejectsOperand (i : Instr) (s : State) : Bool :=
  match i with
  | .prepare fs _ => !rateAccepted s.cfg fs
  | .rdr addr => !(s.regRead addr).isSome
  | _ => false

/-- Of the accepted commands, those that reject their operand set ILL, and no other writes it. -/
theorem effect_status_ill (i : Instr) (s : State) :
    (effect i s).status.ill = (s.status.ill || rejectsOperand i s) := by
  cases i with
  | prepare fs bs => cases h : rateAccepted s.cfg fs <;> simp [effect, rejectsOperand, prepared, h]
  | rdr addr => cases h : (s.regRead addr).isSome <;> simp [effect, rejectsOperand, h]
  | _ => simp [effect, rejectsOperand]

/-- PREPARE at an accepted rate sets PREP, and no other command writes it. -/
theorem effect_status_prep (i : Instr) (s : State) :
    (effect i s).status.prep = (s.status.prep || (isPrepare i && !rejectsOperand i s)) := by
  cases i with
  | prepare fs bs => cases h : rateAccepted s.cfg fs <;> simp [effect, rejectsOperand, isPrepare, prepared, h]
  | rdr addr => cases h : (s.regRead addr).isSome <;> simp [effect, isPrepare, h]
  | _ => simp [effect, isPrepare]

/-! ### Discards -/

@[simp] theorem discard_ports (k : Nat) (s : State) : (discard k s).ports = (s.respond (List.replicate k 0)).ports :=
  rfl

/-- ILL is bit 2 of STATUS. -/
theorem Status.word_setIll (f : Status) : ({ f with ill := true } : Status).word = f.word ||| 4 := by
  obtain ⟨prep, blkfull, ill⟩ := f
  cases prep <;> cases blkfull <;> cases ill <;> decide

/-- Settles O8: the two parts of a discard are read one after the other. -/
theorem discardSetsIllAndAnswersZeros : Obligations.DiscardSetsIllAndAnswersZeros := by
  unfold Obligations.DiscardSetsIllAndAnswersZeros
  intro k s
  refine ⟨fun a ha => ?_, ?_, ⟨rfl, rfl, rfl, rfl, rfl⟩, ⟨rfl, rfl⟩, rfl⟩
  · rw [discard, regRead_respond, regRead_setIll s ha]
  · rw [discard, regRead_respond, ← Status.word_setIll]
    rfl

/-! ### The served packet -/

/-- The port that is served has a complete packet: what a fetch answers. -/
theorem fetch_of_served {s : State} {a : Agent} {h : Word} {ops rest : List Word} (hs : s.served = some a)
    (hc : (s.ports.get a).cmd = h :: (ops ++ rest)) (hl : ops.length = nops (opcOf h)) :
    s.fetch = some (h, ops, s.accept a rest) := by
  simp only [State.fetch, hs, splitPacket_eq_some.2 ⟨hc, hl⟩]

theorem step_of_fetch {s t : State} {h : Word} {ops : List Word} (hf : s.fetch = some (h, ops, t)) :
    step s = runPacket h ops t := by
  simp only [step, hf]

theorem runPacket_of_hasCommand {h : Word} {ops : List Word} {i : Instr} {t : State}
    (hd : decodePacket h ops = some i) (hc : hasCommand t.cfg i = true) : runPacket h ops t = exec i t := by
  simp [runPacket, hd, hc]

theorem runPacket_of_not_hasCommand {h : Word} {ops : List Word} {i : Instr} {t : State}
    (hd : decodePacket h ops = some i) (hc : hasCommand t.cfg i = false) :
    runPacket h ops t = .next (discard (respWords (opcOf h)) t) := by
  simp [runPacket, hd, hc, rejectHeader]

theorem runPacket_of_not_decoded {h : Word} {ops : List Word} {t : State} (hd : decodePacket h ops = none) :
    runPacket h ops t = .next (discard (respWords (opcOf h)) t) := by
  simp [runPacket, hd, rejectHeader]

/-- The implementation has every command of two channels, and of one channel those that do not name the second. -/
theorem hasCommand_iff {k : Params} {i : Instr} :
    hasCommand k i = true ↔ k.nch = .two ∨ namesSecondChannel i = false := by
  simp [hasCommand]

theorem hasCommand_eq_false_iff {k : Params} {i : Instr} :
    hasCommand k i = false ↔ k.nch = .one ∧ namesSecondChannel i = true := by
  cases h : k.nch <;> simp [hasCommand, h]

/-- Settles O6: the served packet is that of the command, so it is what is fetched and decoded. -/
theorem stepRunsTheDecodedCommand : Obligations.StepRunsTheDecodedCommand := by
  unfold Obligations.StepRunsTheDecodedCommand
  intro s a i rest hw hs hc
  obtain ⟨h, ops, he, hl, hd⟩ := encode_decodePacket i hw
  have hopc : opcOfInstr i = opcOf h := by rw [opcOfInstr, he]
  rw [he, List.cons_append] at hc
  have hstep := step_of_fetch (fetch_of_served hs hc hl)
  refine ⟨fun hone => ?_, fun hone hsecond => ?_, rfl⟩
  · exact hstep.trans (runPacket_of_hasCommand hd (hasCommand_iff.2 hone))
  · rw [hopc]
    exact hstep.trans (runPacket_of_not_hasCommand hd (hasCommand_eq_false_iff.2 ⟨hone, hsecond⟩))

/-- Settles O7: no row selects the header, so the packet that is fetched does not decode. -/
theorem stepDiscardsIllegalHeaders : Obligations.StepDiscardsIllegalHeaders := by
  unfold Obligations.StepDiscardsIllegalHeaders
  intro s a h ops rest hs hc hl hi
  rw [step_of_fetch (fetch_of_served hs hc hl), runPacket_of_not_decoded (decodePacket_of_illegal hl hi)]

/-! ### Waiting -/

theorem step_of_readyAgents_nil {s : State} (h : s.readyAgents = []) : step s = .next s := by
  simp only [step, fetch_eq_none.2 h]

/-- Settles O9: a port whose next packet is missing words or lacks room cannot be served. -/
theorem stepWaitsWhereNoPacketCanExecute : Obligations.StepWaitsWhereNoPacketCanExecute := by
  unfold Obligations.StepWaitsWhereNoPacketCanExecute
  intro s hwait
  refine step_of_readyAgents_nil (List.eq_nil_iff_forall_not_mem.2 fun a ha => ?_)
  have hready := mem_readyAgents.1 ha
  unfold Port.ready at hready
  split at hready
  · cases hready
  next h ops rest hsplit =>
    have hroom := of_decide_eq_true hready
    have hfull := hwait a h ops rest hsplit
    omega

/-! ### The law of a step -/

/-- What can become of a packet: its command's effect and answer, or a discard with the zeros of its OPC. -/
inductive PacketOutcome (h : Word) (ops : List Word) (s : State) : State → Prop
  | ran (i : Instr) (hd : decodePacket h ops = some i) (hc : hasCommand s.cfg i = true) (ha : accepts s i = true) :
    PacketOutcome h ops s ((effect i s).respond (answer i s))
  | discarded : PacketOutcome h ops s (discard (respWords (opcOf h)) s)

/-- A step waits, or consumes the packet of a port that can be served and comes to that packet's outcome. -/
theorem step_eq_next {s t : State} (h : step s = .next t) :
    (s.readyAgents = [] ∧ t = s) ∨
    ∃ a hd ops rest, a ∈ s.readyAgents ∧ (s.ports.get a).cmd = hd :: (ops ++ rest) ∧
      ops.length = nops (opcOf hd) ∧ (s.ports.get a).resp.length + respWords (opcOf hd) ≤ s.respDepth ∧
      PacketOutcome hd ops (s.accept a rest) t := by
  rcases step_cases s with ⟨hf, hs⟩ | ⟨hd, ops, u, i, hf, hdec, hcmd, hs⟩ | ⟨hd, ops, u, hf, -, hs⟩
  · rw [hs] at h
    cases h
    exact .inl ⟨fetch_eq_none.1 hf, rfl⟩
  · obtain ⟨a, rest, ha, hc, hl, hroom, rfl⟩ := fetch_eq_some hf
    refine .inr ⟨a, hd, ops, rest, served_mem_readyAgents ha, hc, hl, hroom, ?_⟩
    rcases exec_eq_next (hs ▸ h) with ⟨hacc, rfl⟩ | ⟨-, rfl⟩
    · exact .ran i hdec hcmd hacc
    · rw [← respWords_of_decodePacket hdec]
      exact .discarded
  · obtain ⟨a, rest, ha, hc, hl, hroom, rfl⟩ := fetch_eq_some hf
    refine .inr ⟨a, hd, ops, rest, served_mem_readyAgents ha, hc, hl, hroom, ?_⟩
    rw [hs] at h
    cases h
    exact .discarded

/-- Whatever becomes of a packet, as many words as its OPC has are answered on its port, and the configuration stays. -/
theorem PacketOutcome.responds {h : Word} {ops : List Word} {s t : State} (ho : PacketOutcome h ops s t) :
    ∃ ws, ws.length = respWords (opcOf h) ∧ t.ports = (s.respond ws).ports ∧ t.cur = s.cur ∧ t.turn = s.turn ∧
      t.cfg = s.cfg := by
  cases ho with
  | ran i hd =>
    refine ⟨answer i s, ?_, ?_, effect_cur i s, effect_turn i s, effect_cfg i s⟩
    · rw [answer_length, respWords_of_decodePacket hd]
    · simp only [State.respond, effect_ports, effect_cur]
  | discarded => exact ⟨_, List.length_replicate, rfl, rfl, rfl, rfl⟩

/-- Settles O10: the packet is consumed by `accept`, and its outcome answers on the same pair. -/
theorem eachStepConsumesOnePacketOfOnePort : Obligations.EachStepConsumesOnePacketOfOnePort := by
  unfold Obligations.EachStepConsumesOnePacketOfOnePort
  intro s t h
  rcases step_eq_next h with hwait | ⟨a, hd, ops, rest, ha, hc, hl, -, ho⟩
  · exact .inl hwait
  · obtain ⟨ws, hws, hports, hcur, hturn, -⟩ := ho.responds
    have hown := State.respond_ports_get (s.accept a rest) ws
    rw [State.accept_cur, State.accept_ports_get, ← hports] at hown
    refine .inr ⟨a, hd, ops, rest, ws, ha, hc, hl, by rw [hown], by rw [hown], hws, fun b hb => ?_, hcur, hturn⟩
    rw [hports, State.respond_ports_other _ _ hb, State.accept_ports_other _ _ hb]

/-- Settles O11: a wait, a command and a discard each answer a next state. -/
theorem everyStepCompletes : Obligations.EveryStepCompletes := by
  unfold Obligations.EveryStepCompletes
  intro s
  rcases step_cases s with ⟨-, hs⟩ | ⟨_, _, u, i, -, -, -, hs⟩ | ⟨_, _, _, -, -, hs⟩
  · exact ⟨_, hs⟩
  · exact ⟨_, hs.trans (exec_eq i u)⟩
  · exact ⟨_, hs⟩

/-- Settles O12: the port that is served had room for the words it is answered, and no other is answered any. -/
theorem stepKeepsResponsesWithinRoom : Obligations.StepKeepsResponsesWithinRoom := by
  unfold Obligations.StepKeepsResponsesWithinRoom
  intro s t hfit h b
  rcases step_eq_next h with ⟨-, rfl⟩ | ⟨a, hd, ops, rest, -, -, -, hroom, ho⟩
  · exact hfit b
  · obtain ⟨ws, hws, hports, -, -, hcfg⟩ := ho.responds
    have hdepth : t.respDepth = s.respDepth := by rw [State.respDepth, hcfg]; rfl
    rw [hdepth, hports]
    by_cases hb : b = a
    · subst hb
      have hown := State.respond_ports_get (s.accept b rest) ws
      rw [State.accept_cur, State.accept_ports_get] at hown
      rw [hown, List.length_append, hws]
      exact hroom
    · rw [State.respond_ports_other _ _ hb, State.accept_ports_other _ _ hb]
      exact hfit b

/-! ### Step lemmas for invariants -/

/-- What ports, responses, a discard and the effect of every accepted command keep, a step keeps. -/
theorem step_keeps {P : State → Prop} (haccept : ∀ s a rest, P s → P (s.accept a rest))
    (hrespond : ∀ s ws, P s → P (s.respond ws)) (hill : ∀ s, P s → P s.setIll)
    (heffect : ∀ i s, accepts s i = true → P s → P (effect i s)) {s t : State} (hs : P s) (h : step s = .next t) :
    P t := by
  rcases step_eq_next h with ⟨-, rfl⟩ | ⟨a, hd, ops, rest, -, -, -, -, ho⟩
  · exact hs
  · have hu := haccept s a rest hs
    cases ho with
    | ran i _ _ ha => exact hrespond _ _ (heffect i _ ha hu)
    | discarded => exact hrespond _ _ (hill _ hu)

/-- Settles O13: PREP and ILL are each kept by every effect and by a discard. -/
theorem prepAndIllAreSticky : Obligations.PrepAndIllAreSticky := by
  unfold Obligations.PrepAndIllAreSticky
  intro s t h
  constructor
  · intro hprep
    refine step_keeps (P := fun u => u.status.prep = true) (fun _ _ _ h => h) (fun _ _ h => h) (fun _ h => h) ?_ hprep h
    intro i u _ hu
    rw [effect_status_prep, hu, Bool.true_or]
  · intro hill
    refine step_keeps (P := fun u => u.status.ill = true) (fun _ _ _ h => h) (fun _ _ h => h) (fun _ _ => rfl) ?_ hill h
    intro i u _ hu
    rw [effect_status_ill, hu, Bool.true_or]

/-- Settles O17: address 0 is a constant of the read, and no effect writes the configuration. -/
theorem idAndParametersNeverChange : Obligations.IdAndParametersNeverChange := by
  unfold Obligations.IdAndParametersNeverChange
  refine ⟨fun _ => rfl, fun s t h => ?_⟩
  refine step_keeps (P := fun u => u.cfg = s.cfg) (fun _ _ _ h => h) (fun _ _ h => h) (fun _ h => h) ?_ rfl h
  intro i u _ hu
  rw [effect_cfg, hu]

end Sys2Proof.Machine

/-! The register address space (10 R49, R53): which addresses are listed, what each reads, and the words after power-on
reset. -/

namespace Sys2Proof.Machine

/-! ### The offsets each group of registers has -/

theorem coefReg_isSome {c : Coef} {k : Nat} : (coefReg c k).isSome = true ↔ k < 5 := by
  match k with
  | 0 | 1 | 2 | 3 | 4 => simp [coefReg]
  | n + 5 => simp [coefReg]

theorem delayReg_isSome {d : Delay} {k : Nat} : (delayReg d k).isSome = true ↔ k < 4 := by
  match k with
  | 0 | 1 | 2 | 3 => simp [delayReg]
  | n + 4 => simp [delayReg]

theorem biquadReg_isSome {b : Biquad} {k : Nat} : (biquadReg b k).isSome = true ↔ k < 9 := by
  unfold biquadReg
  split
  · rw [coefReg_isSome]
    omega
  · rw [delayReg_isSome]
    omega

theorem kwReg_isSome {d : KwDelay} {k : Nat} : (kwReg d k).isSome = true ↔ k < 8 := by
  unfold kwReg
  split
  · rw [delayReg_isSome]
    omega
  · rw [delayReg_isSome]
    omega

theorem sysReg_isSome {s : State} {k : Nat} : (sysReg s k).isSome = true ↔ k < 7 := by
  match k with
  | 0 | 1 | 2 | 3 | 4 | 5 | 6 => simp [sysReg]
  | n + 7 => simp [sysReg]

theorem readoutReg_isSome {r : Readouts} {k : Nat} : (readoutReg r k).isSome = true ↔ k < 6 := by
  match k with
  | 0 | 1 | 2 | 3 | 4 | 5 => simp [readoutReg]
  | n + 6 => simp [readoutReg]

theorem ofSecondChannel_isSome {k : Params} {r : Option Word} :
    (ofSecondChannel k r).isSome = true ↔ k.nch = .two ∧ r.isSome = true := by
  cases h : k.nch <;> simp [ofSecondChannel, h]

/-- Offsets 0xB and 0xD are those of channel 1. -/
theorem dynReg_isSome {p : Params} {d : Dyn} {k : Nat} :
    (dynReg p d k).isSome = true ↔ k < 15 ∧ (p.nch = .two ∨ ¬ (k = 0xB ∨ k = 0xD)) := by
  match k with
  | 0 | 1 | 2 | 3 | 4 | 5 | 6 | 7 | 8 | 9 | 10 | 12 | 14 => simp [dynReg]
  | 11 | 13 => simp [dynReg, ofSecondChannel_isSome]
  | n + 15 => simp [dynReg]

/-- The parameters at 0 to 3, and nine offsets for each stage below NSTAGE. -/
theorem chainReg_isSome {n : StageCount} {h : Chain} {k : Nat} :
    (chainReg n h k).isSome = true ↔ k / 16 ≤ n.toNat ∧ (k < 4 ∨ (16 ≤ k ∧ k < 80 ∧ k % 16 < 9)) := by
  unfold chainReg
  split
  next hn => simp [Nat.not_le.2 hn]
  next hn =>
    generalize hq : k / 16 = q at hn ⊢
    generalize hr : k % 16 = r
    match q, r with
    | 0, 0 | 0, 1 | 0, 2 | 0, 3 => simp; omega
    | 0, r + 4 => simp; omega
    | 1, r | 2, r | 3, r | 4, r => simp only [biquadReg_isSome]; omega
    | q + 5, r => simp; omega

/-- Both coefficient sets, the delay lines of each channel, and the windows, the partial block and the count of blocks. -/
theorem meterReg_isSome {p : Params} {m : Meter} {k : Nat} :
    (meterReg p m k).isSome = true ↔
      k < 0x0A ∨ (0x10 ≤ k ∧ k < 0x18) ∨ (0x20 ≤ k ∧ k < 0x28 ∧ p.nch = .two) ∨ (0x40 ≤ k ∧ k < 0x44) ∨
        (0x50 ≤ k ∧ k < 0x52) ∨ k = 0x60 := by
  unfold meterReg
  split_ifs
  · rw [coefReg_isSome]; omega
  · rw [coefReg_isSome]; omega
  · rw [kwReg_isSome]; omega
  · rw [ofSecondChannel_isSome, kwReg_isSome]
    by_cases hn : p.nch = .two <;> simp [hn] <;> omega
  · split
    case h_8 =>
      simp only [imp_false] at *
      simp only [Option.isSome_none, Bool.false_eq_true, false_iff]
      omega
    all_goals simp

theorem inRanges_iff {rs : List (Nat × Nat)} {a : Nat} : inRanges rs a = true ↔ ∃ r ∈ rs, r.1 ≤ a ∧ a ≤ r.2 := by
  simp [inRanges]

theorem listed_iff {k : Params} {a : Nat} :
    listed k a = true ↔
      inRanges listedRanges a = true ∧ (k.nch = .two ∨ ¬ inRanges secondChannelRanges a = true) ∧
        ¬ (0x100 ≤ a ∧ a < 0x200 ∧ k.nstage.toNat < a % 0x80 / 0x10) := by
  simp only [listed, Bool.and_eq_true, Bool.or_eq_true, beq_iff_eq, Bool.not_eq_eq_eq_not, Bool.not_true,
    ← Bool.not_eq_true, decide_eq_true_eq, and_assoc]

/-- The listed addresses are exactly those that read as a register (10 R49). -/
theorem regRead_isSome_iff {s : State} {a : Nat} : (s.regRead a).isSome = true ↔ listed s.cfg a = true := by
  rw [listed_iff]
  simp only [inRanges_iff, listedRanges, secondChannelRanges, List.mem_cons, List.not_mem_nil, or_false,
    exists_eq_or_imp, exists_eq_left]
  generalize hc : s.cfg = k
  unfold State.regRead
  rw [hc]
  generalize htwo : (k.nch = .two) = two
  split_ifs
  · rw [sysReg_isSome]; omega
  · rw [biquadReg_isSome]; omega
  · rw [ofSecondChannel_isSome, biquadReg_isSome, htwo]
    by_cases h : two
    · simp only [h, true_and, true_or]; omega
    · simp only [h, false_and, false_or, false_iff]; omega
  · simp only [Option.isSome_none, Bool.false_eq_true, false_iff]; omega
  · rw [chainReg_isSome]; omega
  · rw [ofSecondChannel_isSome, chainReg_isSome, htwo]
    by_cases h : two
    · simp only [h, true_and, true_or]; omega
    · simp only [h, false_and, false_or, false_iff]; omega
  · rw [dynReg_isSome, htwo]
    by_cases h : two
    · simp only [h, true_and, true_or, and_true]; omega
    · simp only [h, false_or]; omega
  · rw [meterReg_isSome, htwo]
    by_cases h : two
    · simp only [h, true_and, true_or, and_true]; omega
    · simp only [h, and_false, false_or]; omega
  · rw [readoutReg_isSome]; omega

theorem regRead_isSome (s : State) (a : Nat) : (s.regRead a).isSome = listed s.cfg a :=
  Bool.eq_iff_iff.2 regRead_isSome_iff

/-! ### Settling the register map -/

theorem nch_eq_two_of_hasChannel {k : Params} (h : hasChannel k .ch1 = true) : k.nch = .two := by
  cases hn : k.nch with
  | one => simp [hasChannel, hn, Chan.code, ChannelCount.toNat] at h
  | two => rfl

theorem ofSecondChannel_of_hasChannel {k : Params} (h : hasChannel k .ch1 = true) (r : Option Word) :
    ofSecondChannel k r = r :=
  if_pos (nch_eq_two_of_hasChannel h)

/-- What is read of channel 1 is there exactly when the implementation has that channel. -/
theorem ofSecondChannel_eq_ite (k : Params) (r : Option Word) :
    ofSecondChannel k r = if hasChannel k .ch1 then r else none := by
  cases h : k.nch <;> simp [ofSecondChannel, hasChannel, h, Chan.code, ChannelCount.toNat]

/-- Stage `i` of a chain stands at 0x10 times its number counted from 1. -/
theorem chainReg_stage {n : StageCount} (h : Chain) (i : Fin 4) {k : Nat} (hi : i.val < n.toNat) (hk : k < 9) :
    chainReg n h (0x10 * (i.val + 1) + k) = biquadReg (h.stage.get i) k := by
  have hdiv : (0x10 * (i.val + 1) + k) / 16 = i.val + 1 := by omega
  have hmod : (0x10 * (i.val + 1) + k) % 16 = k := by omega
  unfold chainReg
  rw [if_neg (by omega), hdiv, hmod]
  match i with
  | 0 => rfl
  | 1 => rfl
  | 2 => rfl
  | 3 => rfl

/-! The map by its groups: each is read at its own offset. -/

theorem regRead_bq0 (s : State) {k : Nat} (hk : k < 0x10) : s.regRead (0x010 + k) = biquadReg s.bq.ch0 k := by
  unfold State.regRead
  rw [if_neg (by omega), if_pos (by omega), Nat.add_sub_cancel_left]

theorem regRead_bq1 (s : State) {k : Nat} (hk : k < 0x10) :
    s.regRead (0x020 + k) = ofSecondChannel s.cfg (biquadReg s.bq.ch1 k) := by
  unfold State.regRead
  rw [if_neg (by omega), if_neg (by omega), if_pos (by omega), Nat.add_sub_cancel_left]

theorem regRead_ch0 (s : State) {k : Nat} (hk : k < 0x80) :
    s.regRead (0x100 + k) = chainReg s.cfg.nstage s.ch.ch0 k := by
  unfold State.regRead
  rw [if_neg (by omega), if_neg (by omega), if_neg (by omega), if_neg (by omega), if_pos (by omega),
    Nat.add_sub_cancel_left]

theorem regRead_ch1 (s : State) {k : Nat} (hk : k < 0x80) :
    s.regRead (0x180 + k) = ofSecondChannel s.cfg (chainReg s.cfg.nstage s.ch.ch1 k) := by
  unfold State.regRead
  rw [if_neg (by omega), if_neg (by omega), if_neg (by omega), if_neg (by omega), if_neg (by omega),
    if_pos (by omega), Nat.add_sub_cancel_left]

theorem regRead_dyn (s : State) {k : Nat} (hk : k < 0x100) : s.regRead (0x200 + k) = dynReg s.cfg s.dyn k := by
  unfold State.regRead
  rw [if_neg (by omega), if_neg (by omega), if_neg (by omega), if_neg (by omega), if_neg (by omega),
    if_neg (by omega), if_pos (by omega), Nat.add_sub_cancel_left]

theorem regRead_meter (s : State) {k : Nat} (hk : k < 0x100) : s.regRead (0x300 + k) = meterReg s.cfg s.lm k := by
  unfold State.regRead
  rw [if_neg (by omega), if_neg (by omega), if_neg (by omega), if_neg (by omega), if_neg (by omega),
    if_neg (by omega), if_neg (by omega), if_pos (by omega), Nat.add_sub_cancel_left]

theorem regRead_readout (s : State) (k : Nat) : s.regRead (0x400 + k) = readoutReg s.ro k := by
  unfold State.regRead
  rw [if_neg (by omega), if_neg (by omega), if_neg (by omega), if_neg (by omega), if_neg (by omega),
    if_neg (by omega), if_neg (by omega), if_neg (by omega), Nat.add_sub_cancel_left]

theorem meterReg_kw0 (p : Params) (m : Meter) {k : Nat} (hk : k < 0x10) : meterReg p m (0x10 + k) = kwReg m.kw.ch0 k := by
  unfold meterReg
  rw [if_neg (by omega), if_neg (by omega), if_pos (by omega), Nat.add_sub_cancel_left]

theorem meterReg_kw1 (p : Params) (m : Meter) {k : Nat} (hk : k < 0x10) :
    meterReg p m (0x20 + k) = ofSecondChannel p (kwReg m.kw.ch1 k) := by
  unfold meterReg
  rw [if_neg (by omega), if_neg (by omega), if_neg (by omega), if_pos (by omega), Nat.add_sub_cancel_left]

/-! The same by channel, for a channel the implementation has. -/

theorem regRead_bq (s : State) (c : Chan) {k : Nat} (hc : hasChannel s.cfg c = true) (hk : k < 0x10) :
    s.regRead (0x0010 + 0x10 * c.code + k) = biquadReg (s.bq.get c) k := by
  cases c with
  | ch0 => exact regRead_bq0 s hk
  | ch1 => exact (regRead_bq1 s hk).trans (ofSecondChannel_of_hasChannel hc _)

theorem regRead_ch (s : State) (c : Chan) {k : Nat} (hc : hasChannel s.cfg c = true) (hk : k < 0x80) :
    s.regRead (0x0100 + 0x80 * c.code + k) = chainReg s.cfg.nstage (s.ch.get c) k := by
  cases c with
  | ch0 => exact regRead_ch0 s hk
  | ch1 => exact (regRead_ch1 s hk).trans (ofSecondChannel_of_hasChannel hc _)

theorem regRead_kw (s : State) (c : Chan) {k : Nat} (hc : hasChannel s.cfg c = true) (hk : k < 0x10) :
    s.regRead (0x0310 + 0x10 * c.code + k) = kwReg (s.lm.kw.get c) k := by
  cases c with
  | ch0 =>
    rw [Chan.code, show 0x310 + 0x10 * 0 + k = 0x300 + (0x10 + k) by omega, regRead_meter s (by omega),
      meterReg_kw0 _ _ hk, Duo.get]
  | ch1 =>
    rw [Chan.code, show 0x310 + 0x10 * 1 + k = 0x300 + (0x20 + k) by omega, regRead_meter s (by omega),
      meterReg_kw1 _ _ hk, ofSecondChannel_of_hasChannel hc, Duo.get]

/-- The parameters of a chain, at its first four offsets. -/
theorem regRead_ch_params (s : State) (c : Chan) (hc : hasChannel s.cfg c = true) :
    s.regRead (0x0100 + 0x80 * c.code) = some (typeWord (s.ch.get c).ty) ∧
    s.regRead (0x0101 + 0x80 * c.code) = some (s.ch.get c).order ∧
    s.regRead (0x0102 + 0x80 * c.code) = some (s.ch.get c).freq.bits ∧
    s.regRead (0x0103 + 0x80 * c.code) = some (boolWord (s.ch.get c).en) := by
  have hread := fun k hk => regRead_ch s c (k := k) hc hk
  rw [show 0x101 + 0x80 * c.code = 0x100 + 0x80 * c.code + 1 by omega,
    show 0x102 + 0x80 * c.code = 0x100 + 0x80 * c.code + 2 by omega,
    show 0x103 + 0x80 * c.code = 0x100 + 0x80 * c.code + 3 by omega]
  exact ⟨hread 0 (by decide), hread 1 (by decide), hread 2 (by decide), hread 3 (by decide)⟩

/-- The eight words of a K-weighting filter's delay lines, in order. -/
theorem regRead_kw_words (s : State) (c : Chan) (hc : hasChannel s.cfg c = true) :
    (List.range 8).map (fun k => s.regRead (0x0310 + 0x10 * c.code + k)) = (List.range 8).map (kwReg (s.lm.kw.get c)) :=
  List.map_congr_left fun k hk => regRead_kw s c hc (Nat.lt_trans (List.mem_range.1 hk) (by decide))

/-- Settles O18: which addresses read, and then the map group by group. -/
theorem registerMapIsTheTable : Obligations.RegisterMapIsTheTable := by
  unfold Obligations.RegisterMapIsTheTable
  intro s
  refine ⟨regRead_isSome s, rfl, rfl, rfl, rfl, rfl, rfl, rfl,
    fun c k hc hk => regRead_bq s c hc (Nat.lt_trans hk (by decide)), regRead_ch_params s,
    fun c i k hc hi hk => ?_, fun b => rfl, ?_, rfl, fun c hc => ?_, rfl, rfl, rfl, rfl, rfl, rfl, rfl, rfl⟩
  · rw [Nat.add_assoc, regRead_ch s c hc (by omega), chainReg_stage _ i hi hk]
  · rw [← ofSecondChannel_eq_ite, ← ofSecondChannel_eq_ite]
    rfl
  · exact (regRead_kw_words s c hc).trans rfl

/-! ### RDR (46 R255) -/

theorem encode_rdr {addr : Nat} (h : addr < 65536) : encode (.rdr addr) = [0x04000000 + BitVec.ofNat 32 addr] := by
  rw [encode, Nat.mod_eq_of_lt h, headerWord_eq_add_imm]
  rfl

theorem exec_rdr_of_some {s : State} {addr : Nat} {w : Word} (h : s.regRead addr = some w) :
    exec (.rdr addr) s = .next (s.respond [w]) := by
  rw [exec_rdr, effect, answer, h]
  rfl

theorem exec_rdr_of_none {s : State} {addr : Nat} (h : s.regRead addr = none) :
    exec (.rdr addr) s = .next (s.setIll.respond [0]) := by
  rw [exec_rdr, effect, answer, h]
  rfl

/-- Settles O19: a listed address reads a word, any other none. -/
theorem rdrReadsOneWord : Obligations.RdrReadsOneWord := by
  unfold Obligations.RdrReadsOneWord
  intro s addr haddr
  refine ⟨encode_rdr haddr, fun hl => ?_, fun hl => ?_⟩
  · obtain ⟨w, hw⟩ := Option.isSome_iff_exists.1 (regRead_isSome_iff.2 hl)
    exact ⟨w, hw, exec_rdr_of_some hw⟩
  · have hnone : s.regRead addr = none := by
      rw [← Option.not_isSome_iff_eq_none, regRead_isSome, hl]
      decide
    exact exec_rdr_of_none hnone

/-! ### After power-on reset (10 R53) -/

/-- The same state in an implementation of two channels and four stages. -/
def State.inFull (s : State) : State := { s with cfg := { s.cfg with nch := .two, nstage := .four } }

theorem ofSecondChannel_eq_some {k : Params} {r : Option Word} {w : Word} (h : ofSecondChannel k r = some w) :
    r = some w := by
  unfold ofSecondChannel at h
  split at h
  · exact h
  · cases h

theorem chainReg_four_of_some {n : StageCount} {h : Chain} {k : Nat} {w : Word} (hr : chainReg n h k = some w) :
    chainReg .four h k = some w := by
  have hk : k / 16 ≤ 4 := by
    have hs := (chainReg_isSome (n := n) (h := h) (k := k)).1 (by rw [hr]; rfl)
    omega
  unfold chainReg at hr ⊢
  split at hr
  · cases hr
  · rw [if_neg (by simpa [StageCount.toNat] using hk)]
    exact hr

theorem dynReg_two_of_some {p : Params} {d : Dyn} {k : Nat} {w : Word} (hr : dynReg p d k = some w) :
    dynReg { p with nch := .two, nstage := .four } d k = some w := by
  unfold dynReg at hr ⊢
  split at hr
  case h_12 | h_14 => exact ofSecondChannel_eq_some hr
  all_goals exact hr

theorem meterReg_two_of_some {p : Params} {m : Meter} {k : Nat} {w : Word} (hr : meterReg p m k = some w) :
    meterReg { p with nch := .two, nstage := .four } m k = some w := by
  unfold meterReg at hr ⊢
  split_ifs at hr ⊢
  · exact hr
  · exact hr
  · exact hr
  · exact ofSecondChannel_eq_some hr
  · exact hr

/-- A register that an implementation of fewer channels or stages has is there with all of them, with the same word. -/
theorem regRead_inFull_of_some {s : State} {a : Nat} {w : Word} (h : s.regRead a = some w) :
    s.inFull.regRead a = some w := by
  unfold State.regRead at h ⊢
  split_ifs at h ⊢
  · exact h
  · exact h
  · exact ofSecondChannel_eq_some h
  · exact chainReg_four_of_some h
  · exact chainReg_four_of_some (ofSecondChannel_eq_some h)
  · exact dynReg_two_of_some h
  · exact meterReg_two_of_some h
  · exact h

/-- The power-on column, address by address, where every listed register is there. -/
theorem powerOn_inFull_regRead (k : Params) {a : Nat} (h : inRanges listedRanges a = true) :
    (State.powerOn k).inFull.regRead a = some (powerOnWord k a) := by
  simp only [inRanges_iff, listedRanges, List.mem_cons, List.not_mem_nil, or_false, exists_eq_or_imp,
    exists_eq_left] at h
  rcases h with h | h | h | h | h | h | h | h | h | h | h | h | h | h | h | h | h | h | h | h | h
  all_goals
    obtain ⟨hlo, hhi⟩ := h
    interval_cases a <;> rfl

/-- The power-on column of 10 R53. -/
theorem powerOn_regRead (k : Params) {a : Nat} (h : listed k a = true) :
    (State.powerOn k).regRead a = some (powerOnWord k a) := by
  obtain ⟨w, hw⟩ := Option.isSome_iff_exists.1 ((regRead_isSome (State.powerOn k) a).trans h)
  rw [hw, ← regRead_inFull_of_some hw, powerOn_inFull_regRead k (listed_iff.1 h).1]

/-- Settles O20: the column by address, and the parts of the state that have no address. -/
theorem powerOnGivesTheTablesValues : Obligations.PowerOnGivesTheTablesValues := by
  unfold Obligations.PowerOnGivesTheTablesValues
  intro k
  refine ⟨fun a => powerOn_regRead k, rfl, rfl, rfl, rfl, fun a => ?_, rfl, rfl, by decide +kernel⟩
  cases a <;> rfl

end Sys2Proof.Machine

/-! Which commands write which state (10 R32, R47, R48, R51): the causes of ILL, the flags, the frames of the units, and
the publishers of the readouts. -/

namespace Sys2Proof.Machine

/-! ### The causes of ILL (60 R271) -/

theorem accepts_eq_false_iff {s : State} {i : Instr} :
    accepts s i = false ↔ s.status.prep = false ∧ legalUnprepared i = false := by
  simp [accepts]

theorem rejectsOperand_iff {i : Instr} {s : State} :
    rejectsOperand i s = true ↔
      (∃ fs bs, i = .prepare fs bs ∧ rateAccepted s.cfg fs = false) ∨ (∃ a, i = .rdr a ∧ listed s.cfg a = false) := by
  cases i <;> simp [rejectsOperand, ← regRead_isSome]

/-- X1 to X4, for a packet in the state it executes in. -/
def CausesIll (h : Word) (ops : List Word) (u : State) : Prop :=
  headerLegal h = false ∨
    ∃ i, decodePacket h ops = some i ∧
      ((u.cfg.nch = .one ∧ namesSecondChannel i = true) ∨
       (u.status.prep = false ∧ legalUnprepared i = false) ∨
       (∃ fs bs, i = .prepare fs bs ∧ rateAccepted u.cfg fs = false) ∨
       (∃ a, i = .rdr a ∧ listed u.cfg a = false))

theorem causesIll_of_not_hasCommand {h : Word} {ops : List Word} {u : State} (hl : ops.length = nops (opcOf h))
    (hc : ∀ i, decodePacket h ops = some i → hasCommand u.cfg i = false) : CausesIll h ops u := by
  cases hd : decodePacket h ops with
  | none => exact .inl (illegal_of_decodePacket hl hd)
  | some i => exact .inr ⟨i, hd, .inl (hasCommand_eq_false_iff.1 (hc i hd))⟩

/-- For a command the implementation has, the causes are those of the command: it is not accepted, or rejects its
operand. -/
theorem causesIll_iff_of_hasCommand {h : Word} {ops : List Word} {i : Instr} {u : State}
    (hl : ops.length = nops (opcOf h)) (hd : decodePacket h ops = some i) (hc : hasCommand u.cfg i = true) :
    CausesIll h ops u ↔ accepts u i = false ∨ rejectsOperand i u = true := by
  have hlegal : headerLegal h ≠ false := by
    intro hi
    rw [decodePacket_of_illegal hl hi] at hd
    cases hd
  have hchan : ¬ (u.cfg.nch = .one ∧ namesSecondChannel i = true) := by
    rw [← hasCommand_eq_false_iff, hc]
    decide
  simp only [CausesIll, hd, Option.some.injEq, exists_eq_left', hlegal, hchan, false_or, accepts_eq_false_iff,
    rejectsOperand_iff, reduceCtorEq]

/-- A command raises ILL when it is discarded or rejects its operand. -/
theorem exec_ill_iff {i : Instr} {s t : State} (h : exec i s = .next t) (hs : s.status.ill = false) :
    t.status.ill = true ↔ accepts s i = false ∨ rejectsOperand i s = true := by
  rcases exec_eq_next h with ⟨ha, rfl⟩ | ⟨ha, rfl⟩
  · simp [ha, effect_status_ill, hs]
  · simp [ha]

/-- Settles O14: for each way a step can go, its flag and its causes agree. -/
theorem illIsSetByTheListedCausesOnly : Obligations.IllIsSetByTheListedCausesOnly := by
  unfold Obligations.IllIsSetByTheListedCausesOnly
  intro s t h hs
  have causes : (t.status.ill = true ↔ ∃ hd ops u, s.fetch = some (hd, ops, u) ∧ CausesIll hd ops u) := by
    rcases step_cases s with ⟨hf, hstep⟩ | ⟨hd, ops, u, i, hf, hdec, hc, hstep⟩ | ⟨hd, ops, u, hf, hc, hstep⟩
    · obtain rfl : s = t := by simpa [hstep] using h
      simp [hs, hf]
    · obtain ⟨a, rest, -, -, hl, -, rfl⟩ := fetch_eq_some hf
      rw [exec_ill_iff (s := s.accept a rest) (hstep ▸ h) hs, ← causesIll_iff_of_hasCommand hl hdec hc]
      simp [hf]
    · obtain ⟨a, rest, -, -, hl, -, rfl⟩ := fetch_eq_some hf
      obtain rfl : discard (respWords (opcOf hd)) (s.accept a rest) = t := by simpa [hstep] using h
      simp [hf, causesIll_of_not_hasCommand hl hc]
  rw [causes]
  refine exists_congr fun hd => exists_congr fun ops => exists_congr fun u => and_congr_right fun hf => ?_
  obtain ⟨a, rest, -, -, -, -, rfl⟩ := fetch_eq_some hf
  exact Iff.rfl

/-! ### The history and what is computed from it -/

/-- The part of the state that the history and its readouts make up, with the configuration. -/
structure HistoryRecord where
  blkMS : List NUM
  blkLU : List NUM
  n : U32
  blkfull : Bool
  integ : NUM
  lra : NUM
  dr : NUM
  cfg : Params

def State.historyRecord (s : State) : HistoryRecord :=
  { blkMS := s.lm.blkMS, blkLU := s.lm.blkLU, n := s.lm.n, blkfull := s.status.blkfull, integ := s.ro.integ,
    lra := s.ro.lra, dr := s.ro.dr, cfg := s.cfg }

/-- Only a command that can offer a block, RSTI and PREPARE write the history, its readouts and BLKFULL. -/
theorem effect_historyRecord {i : Instr} (s : State) (hf : feedsHistory i = false) (hr : i ≠ .rsti)
    (hp : isPrepare i = false) : (effect i s).historyRecord = s.historyRecord := by
  cases i with
  | rsti => exact absurd rfl hr
  | prepare fs bs => cases hp
  | giAcc | laOffer | lmStep | lmStepm => cases hf
  | reset units => simp only [effect, resetUnits, State.historyRecord]; split <;> rfl
  | rdr addr => simp only [effect]; split <;> rfl
  | _ => rfl

/-- A command that can offer a block offers one, or none, in a state whose history is that from before it. -/
theorem effect_of_feedsHistory {i : Instr} (s : State) (hf : feedsHistory i = true) :
    ∃ u, u.historyRecord = s.historyRecord ∧ (effect i s = u ∨ ∃ ms, effect i s = offerBlock ms u) := by
  have gate : ∀ p v, v.historyRecord = s.historyRecord →
      ∃ u, u.historyRecord = s.historyRecord ∧ (gateAcc p v = u ∨ ∃ ms, gateAcc p v = offerBlock ms u) := by
    intro p v hv
    rcases gateAcc_cases p v with ⟨-, h⟩ | ⟨-, h⟩
    · refine ⟨_, ?_, .inr ⟨_, h⟩⟩
      exact hv
    · refine ⟨_, ?_, .inl h⟩
      exact hv
  cases i with
  | giAcc p => exact gate p s rfl
  | laOffer ms => exact ⟨s, rfl, .inr ⟨ms, rfl⟩⟩
  | lmStep xL xR => exact gate _ _ rfl
  | lmStepm x => exact gate _ _ rfl
  | _ => cases hf

/-- Offering a block leaves BLKFULL, or raises it where the history is full. -/
theorem offerBlock_blkfull (ms : NUM) (s : State) :
    (offerBlock ms s).status.blkfull = s.status.blkfull ∨
      ((offerBlock ms s).status.blkfull = true ∧ s.cfg.blkCap ≤ s.lm.n) := by
  rcases offerBlock_cases ms s with h | ⟨-, h⟩ | ⟨hfull, h⟩ <;> rw [h]
  · exact .inl rfl
  · exact .inl rfl
  · exact .inr ⟨rfl, BitVec.not_lt.1 hfull⟩

/-- What an accepted command does to BLKFULL. -/
theorem effect_blkfull (i : Instr) (s : State) :
    (effect i s).status.blkfull = s.status.blkfull ∨
      (feedsHistory i = true ∧ (effect i s).status.blkfull = true ∧ s.cfg.blkCap ≤ s.lm.n) ∨
      ((effect i s).status.blkfull = false ∧ (i = .rsti ∨ isPrepare i = true)) := by
  cases hf : feedsHistory i with
  | true =>
    obtain ⟨u, hu, h | ⟨ms, h⟩⟩ := effect_of_feedsHistory s hf
    · rw [h]
      exact .inl (congrArg HistoryRecord.blkfull hu)
    · have hb : u.status.blkfull = s.status.blkfull := congrArg HistoryRecord.blkfull hu
      have hn : u.lm.n = s.lm.n := congrArg HistoryRecord.n hu
      have hc : u.cfg.blkCap = s.cfg.blkCap := congrArg (fun r => r.cfg.blkCap) hu
      rw [h, ← hb, ← hn, ← hc]
      exact (offerBlock_blkfull ms u).imp_right fun hfull => .inl ⟨rfl, hfull⟩
  | false =>
    by_cases hr : i = .rsti
    · subst hr
      exact .inr (.inr ⟨rfl, .inl rfl⟩)
    · cases hp : isPrepare i with
      | false => exact .inl (congrArg HistoryRecord.blkfull (effect_historyRecord s hf hr hp))
      | true =>
        cases i with
        | prepare fs bs =>
          by_cases ha : rateAccepted s.cfg fs = true
          · exact .inr (.inr ⟨by rw [effect, if_pos ha]; rfl, .inr rfl⟩)
          · exact .inl (by rw [effect, if_neg ha]; rfl)
        | _ => cases hp

/-- Settles O15: an accepted command writes PREP and BLKFULL where the table says, a discard neither. -/
theorem prepAndBlkfullChangeWhereTheTableSays : Obligations.PrepAndBlkfullChangeWhereTheTableSays := by
  unfold Obligations.PrepAndBlkfullChangeWhereTheTableSays
  intro i s t h
  rcases exec_eq_next h with ⟨-, rfl⟩ | ⟨-, rfl⟩
  · simp only [State.respond_status]
    refine ⟨fun hs ht => ?_, fun hs ht => ?_, fun hs ht => ?_⟩
    · rw [effect_status_prep, hs, Bool.false_or, Bool.and_eq_true, Bool.not_eq_true'] at ht
      obtain ⟨hp, ha⟩ := ht
      cases i with
      | prepare fs bs => exact ⟨fs, bs, rfl, by simpa [rejectsOperand] using ha⟩
      | _ => cases hp
    · rcases effect_blkfull i s with hb | ⟨hf, -, hn⟩ | ⟨hb, -⟩
      · simp [hb, hs] at ht
      · exact ⟨hf, hn⟩
      · simp [hb] at ht
    · rcases effect_blkfull i s with hb | ⟨-, hb, -⟩ | ⟨-, hi⟩
      · simp [hb, hs] at ht
      · simp [hb] at ht
      · exact hi
  · simp only [discard_status]
    refine ⟨fun hs ht => ?_, fun hs ht => ?_, fun hs ht => ?_⟩
    · simp [hs] at ht
    · simp [hs] at ht
    · simp [hs] at ht

/-! ### The publishers of the readouts (10 R48) -/

theorem effect_mom_st {i : Instr} (s : State) (hp : isPrepare i = false) (h : i ≠ .lmPub) :
    (effect i s).ro.mom = s.ro.mom ∧ (effect i s).ro.st = s.ro.st := by
  cases i with
  | lmPub => exact absurd rfl h
  | prepare fs bs => cases hp
  | rdr addr => simp only [effect]; split <;> exact ⟨rfl, rfl⟩
  | giAcc p => exact ⟨gateAcc_ro_mom p s, gateAcc_ro_st p s⟩
  | laOffer ms => exact ⟨offerBlock_ro_mom ms s, offerBlock_ro_st ms s⟩
  | lmStep xL xR => exact ⟨gateAcc_ro_mom _ _, gateAcc_ro_st _ _⟩
  | lmStepm x => exact ⟨gateAcc_ro_mom _ _, gateAcc_ro_st _ _⟩
  | _ => exact ⟨rfl, rfl⟩

theorem effect_gr {i : Instr} (s : State) (hp : isPrepare i = false) (h : i ≠ .dynPub) :
    (effect i s).ro.gr = s.ro.gr := by
  cases i with
  | dynPub => exact absurd rfl h
  | prepare fs bs => cases hp
  | rdr addr => simp only [effect]; split <;> rfl
  | giAcc p => exact gateAcc_ro_gr p s
  | laOffer ms => exact offerBlock_ro_gr ms s
  | lmStep xL xR => exact gateAcc_ro_gr _ _
  | lmStepm x => exact gateAcc_ro_gr _ _
  | _ => rfl

/-- Settles O58: by readout; a discard writes none. -/
theorem readoutsAreWrittenByTheirPublishersOnly : Obligations.ReadoutsAreWrittenByTheirPublishersOnly := by
  unfold Obligations.ReadoutsAreWrittenByTheirPublishersOnly
  intro i s t h hp
  rcases exec_eq_next h with ⟨-, rfl⟩ | ⟨-, rfl⟩
  · refine ⟨effect_mom_st s hp, fun hf hr => ?_, effect_gr s hp⟩
    have hsame := effect_historyRecord s hf hr hp
    simp only [State.historyRecord, HistoryRecord.mk.injEq] at hsame
    obtain ⟨hms, hlu, hn, -, hinteg, hlra, hdr, -⟩ := hsame
    exact ⟨hinteg, hlra, hdr, hms, hlu, hn⟩
  · exact ⟨fun _ => ⟨rfl, rfl⟩, fun _ _ => ⟨rfl, rfl, rfl, rfl, rfl, rfl⟩, fun _ => rfl⟩

/-! ### The frames of the units (10 R51)

In each frame the commands of the unit are the cases with content; RESET and PREPARE are excluded by the unit they would
restart, and every other command leaves the unit by definition. -/

theorem ne_of_beq_eq_false {c c' : Chan} (h : (c' == c) = false) : c ≠ c' := by
  rintro rfl
  simp at h

theorem effect_bq_frame {i : Instr} (s : State) {c : Chan} (hn : namesBq c i = false)
    (hr : restartsUnit 0 i = false) : (effect i s).bq.get c = s.bq.get c := by
  cases i with
  | bqSetc c' | bqStep c' | bqRst c' => exact Duo.get_set_other _ _ (ne_of_beq_eq_false hn)
  | prepare fs bs => cases hr
  | reset units => simp only [effect, resetUnits, show unitSelected units 0 = false from hr]; rfl
  | rdr addr => simp only [effect]; split <;> rfl
  | _ => simp [effect]

theorem effect_ch_frame {i : Instr} (s : State) {c : Chan} (hn : namesCh c i = false)
    (hr : restartsUnit 1 i = false) : (effect i s).ch.get c = s.ch.get c := by
  cases i with
  | chSetp c' | chEn c' | chStep c' | chRst c' => exact Duo.get_set_other _ _ (ne_of_beq_eq_false hn)
  | prepare fs bs => cases hr
  | reset units => simp only [effect, resetUnits, show unitSelected units 1 = false from hr]; rfl
  | rdr addr => simp only [effect]; split <;> rfl
  | _ => simp [effect]

theorem effect_dyn_frame {i : Instr} (s : State) (hn : writesDyn i = false) (hr : restartsUnit 2 i = false) :
    (effect i s).dyn = s.dyn := by
  cases i with
  | dynThr | dynRat | dynKne | dynAtt | dynRel | dynLnk | dynAuto | envStep | dynStep | dynStepm | dynPub => cases hn
  | prepare fs bs => cases hr
  | reset units => simp only [effect, resetUnits, show unitSelected units 2 = false from hr]; rfl
  | rdr addr => simp only [effect]; split <;> rfl
  | _ => simp [effect]

/-- The setters and DYN.PUB write the detector, but not its followers. -/
theorem effect_env_frame {i : Instr} (s : State) {c : Chan} (hn : advancesEnv c i = false)
    (hr : restartsUnit 2 i = false) :
    (effect i s).dyn.env.get c = s.dyn.env.get c ∧ (effect i s).dyn.ar.get c = s.dyn.ar.get c := by
  cases i with
  | envStep c' level =>
    exact ⟨envAdvance_env_other _ _ _ _ (ne_of_beq_eq_false hn), envAdvance_ar_other _ _ _ _ (ne_of_beq_eq_false hn)⟩
  | dynStep | dynStepm => cases hn
  | dynThr | dynRat | dynKne | dynAtt | dynRel | dynLnk | dynAuto | dynPub => exact ⟨rfl, rfl⟩
  | _ => rw [effect_dyn_frame s rfl hr]; exact ⟨rfl, rfl⟩

/-- One sample of the meter advances both filters; that of a channel's own command, its own. -/
theorem effect_kw_frame {i : Instr} (s : State) {c : Chan} (hn : advancesKw c i = false)
    (hr : restartsUnit 3 i = false) : (effect i s).lm.kw.get c = s.lm.kw.get c := by
  cases i with
  | kwStep c' x => exact Duo.get_set_other _ _ (ne_of_beq_eq_false hn)
  | lmStep | lmStepm => cases hn
  | prepare fs bs => cases hr
  | reset units => simp only [effect, resetUnits, show unitSelected units 3 = false from hr]; rfl
  | rdr addr => simp only [effect]; split <;> rfl
  | giAcc p => simp only [effect, gateAcc_lm_kw]
  | laOffer ms => simp only [effect, offerBlock_lm_kw]
  | _ => rfl

theorem effect_windows_frame {i : Instr} (s : State) (hn : feedsWindows i = false) (hr : restartsUnit 3 i = false) :
    (effect i s).lm.winM = s.lm.winM ∧ (effect i s).lm.winS = s.lm.winS := by
  cases i with
  | swPush | lmStep | lmStepm => cases hn
  | prepare fs bs => cases hr
  | reset units => simp only [effect, resetUnits, show unitSelected units 3 = false from hr]; exact ⟨rfl, rfl⟩
  | rdr addr => simp only [effect]; split <;> exact ⟨rfl, rfl⟩
  | giAcc p => exact ⟨gateAcc_lm_winM p s, gateAcc_lm_winS p s⟩
  | laOffer ms => exact ⟨offerBlock_lm_winM ms s, offerBlock_lm_winS ms s⟩
  | _ => exact ⟨rfl, rfl⟩

theorem effect_gate_frame {i : Instr} (s : State) (hn : feedsGate i = false) (hr : restartsUnit 3 i = false) :
    (effect i s).lm.gsum = s.lm.gsum ∧ (effect i s).lm.gcnt = s.lm.gcnt := by
  cases i with
  | giAcc | lmStep | lmStepm => cases hn
  | prepare fs bs => cases hr
  | reset units => simp only [effect, resetUnits, show unitSelected units 3 = false from hr]; exact ⟨rfl, rfl⟩
  | rdr addr => simp only [effect]; split <;> exact ⟨rfl, rfl⟩
  | laOffer ms => exact ⟨offerBlock_lm_gsum ms s, offerBlock_lm_gcnt ms s⟩
  | _ => exact ⟨rfl, rfl⟩

/-- The configuration counts are PREPARE's alone. -/
theorem effect_rates_frame {i : Instr} (s : State) (hp : isPrepare i = false) :
    (effect i s).fs = s.fs ∧ (effect i s).blksz = s.blksz ∧ (effect i s).n100 = s.n100 ∧
      (effect i s).n400 = s.n400 ∧ (effect i s).n3s = s.n3s := by
  cases i with
  | prepare fs bs => cases hp
  | rdr addr => simp only [effect]; split <;> exact ⟨rfl, rfl, rfl, rfl, rfl⟩
  | _ => simp [effect]

/-- So are the coefficient sets of the K-weighting. -/
theorem effect_kwCoefs_frame {i : Instr} (s : State) (hp : isPrepare i = false) :
    (effect i s).lm.kwc1 = s.lm.kwc1 ∧ (effect i s).lm.kwc2 = s.lm.kwc2 := by
  cases i with
  | prepare fs bs => cases hp
  | reset units => simp only [effect, resetUnits]; split <;> exact ⟨rfl, rfl⟩
  | rdr addr => simp only [effect]; split <;> exact ⟨rfl, rfl⟩
  | giAcc p => exact ⟨gateAcc_lm_kwc1 p s, gateAcc_lm_kwc2 p s⟩
  | laOffer ms => exact ⟨offerBlock_lm_kwc1 ms s, offerBlock_lm_kwc2 ms s⟩
  | lmStep xL xR => exact ⟨gateAcc_lm_kwc1 _ _, gateAcc_lm_kwc2 _ _⟩
  | lmStepm x => exact ⟨gateAcc_lm_kwc1 _ _, gateAcc_lm_kwc2 _ _⟩
  | _ => exact ⟨rfl, rfl⟩

/-- Settles O57: frame by frame; a discard writes no unit. -/
theorem commandsTouchOnlyTheStateTheyName : Obligations.CommandsTouchOnlyTheStateTheyName := by
  unfold Obligations.CommandsTouchOnlyTheStateTheyName
  intro i s t h
  rcases exec_eq_next h with ⟨-, rfl⟩ | ⟨-, rfl⟩
  · refine ⟨fun c => effect_bq_frame s, fun c => effect_ch_frame s, effect_dyn_frame s, fun c => effect_env_frame s,
      fun c => effect_kw_frame s, effect_windows_frame s, effect_gate_frame s, fun hp => ?_⟩
    obtain ⟨hfs, hblksz, hn100, hn400, hn3s⟩ := effect_rates_frame s hp
    exact ⟨hfs, hblksz, hn100, hn400, hn3s, effect_kwCoefs_frame s hp⟩
  · exact ⟨fun _ _ _ => rfl, fun _ _ _ => rfl, fun _ _ => rfl, fun _ _ _ => ⟨rfl, rfl⟩, fun _ _ _ => rfl,
      fun _ _ => ⟨rfl, rfl⟩, fun _ _ => ⟨rfl, rfl⟩, fun _ => ⟨rfl, rfl, rfl, rfl, rfl, rfl, rfl⟩⟩

end Sys2Proof.Machine

/-! Rounding (00 R9, 60 R272), for every format: magnitude patterns against the numbers of units they stand for, and what
`roundMag` delivers. `clamp` on finite words. -/

namespace Sys2Proof

namespace NumFormat

/-! ### Widths -/

theorem fracBits_pos (F : NumFormat) : 1 ≤ F.fracBits := by
  have := F.expCode.isLt
  unfold fracBits
  omega

theorem two_le_expBits (F : NumFormat) : 2 ≤ F.expBits := by
  unfold expBits
  omega

theorem four_le_two_pow_expBits (F : NumFormat) : 4 ≤ 2 ^ F.expBits :=
  Nat.pow_le_pow_right (n := 2) (by decide) F.two_le_expBits

/-- Patterns of one exponent are an even number. -/
theorem two_pow_fracBits_even (F : NumFormat) : 2 ^ F.fracBits % 2 = 0 := by
  obtain ⟨j, hj⟩ := Nat.exists_eq_add_of_le F.fracBits_pos
  rw [hj, Nat.pow_add]
  omega

/-! ### Units of a magnitude pattern -/

/-- `s` is the exponent and `k` the significand of a magnitude pattern `s * 2^f + k`: normal, or subnormal with `s = 0`.
The significand may be the first of the next exponent, as it is after a carry. -/
structure Splits (F : NumFormat) (s k : Nat) : Prop where
  le : k ≤ 2 ^ (F.fracBits + 1)
  normal : s = 0 ∨ 2 ^ F.fracBits ≤ k

/-- A pattern stands for its significand, scaled by its exponent. -/
theorem unitsOfMag_splits {F : NumFormat} {s k : Nat} (h : F.Splits s k) :
    F.unitsOfMag (s * 2 ^ F.fracBits + k) = k * 2 ^ s := by
  obtain ⟨hle, hnormal⟩ := h
  have hpos : 0 < 2 ^ F.fracBits := Nat.two_pow_pos _
  rw [Nat.pow_succ] at hle
  unfold unitsOfMag
  generalize 2 ^ F.fracBits = f at *
  rcases Nat.lt_or_ge k f with hk | hk
  · obtain rfl : s = 0 := by omega
    simp [hk]
  · have hlow : ¬ s * f + k < f := by have := Nat.zero_le (s * f); omega
    rw [if_neg hlow]
    rcases Nat.lt_or_ge k (2 * f) with hk2 | hk2
    · have hp : s * f + k = (k - f) + f * (s + 1) := by rw [Nat.mul_add, Nat.mul_comm f s]; omega
      rw [hp, Nat.add_mul_mod_self_left, Nat.add_mul_div_left _ _ hpos, Nat.mod_eq_of_lt (by omega),
        Nat.div_eq_of_lt (by omega), show f + (k - f) = k by omega, show 0 + (s + 1) - 1 = s by omega]
    · obtain rfl : k = f * 2 := by omega
      have hp : s * f + f * 2 = f * (s + 2) := by rw [Nat.mul_add, Nat.mul_comm f s]
      rw [hp, Nat.mul_mod_right, Nat.mul_div_cancel_left _ hpos, show s + 2 - 1 = s + 1 by omega, Nat.pow_succ]
      ring

/-- Every pattern has an exponent and a significand below the carry. -/
theorem exists_splits (F : NumFormat) (p : Nat) :
    ∃ s k, F.Splits s k ∧ k + 1 ≤ 2 ^ (F.fracBits + 1) ∧ p = s * 2 ^ F.fracBits + k := by
  have hpos : 0 < 2 ^ F.fracBits := Nat.two_pow_pos _
  have hdiv := Nat.div_add_mod p (2 ^ F.fracBits)
  have hmod := Nat.mod_lt p hpos
  have hpow : 2 ^ (F.fracBits + 1) = 2 ^ F.fracBits * 2 := Nat.pow_succ ..
  rcases Nat.lt_or_ge p (2 ^ F.fracBits) with hp | hp
  · exact ⟨0, p, ⟨by omega, .inl rfl⟩, by omega, by omega⟩
  · have hq : 1 ≤ p / 2 ^ F.fracBits := (Nat.one_le_div_iff hpos).2 hp
    obtain ⟨q, hq'⟩ := Nat.exists_eq_add_of_le hq
    refine ⟨q, 2 ^ F.fracBits + p % 2 ^ F.fracBits, ⟨by omega, .inr (by omega)⟩, by omega, ?_⟩
    rw [hq', Nat.mul_add, Nat.mul_comm _ q] at hdiv
    omega

/-- The next significand, at the same exponent. -/
theorem Splits.succ {F : NumFormat} {s k : Nat} (h : F.Splits s k) (hk : k + 1 ≤ 2 ^ (F.fracBits + 1)) :
    F.Splits s (k + 1) :=
  ⟨hk, h.normal.imp_right fun hn => Nat.le_succ_of_le hn⟩

/-- Patterns grow with the values they stand for. -/
theorem unitsOfMag_strictMono (F : NumFormat) : StrictMono F.unitsOfMag := by
  refine strictMono_nat_of_lt_succ fun p => ?_
  obtain ⟨s, k, h, hk, rfl⟩ := F.exists_splits p
  rw [Nat.add_assoc, unitsOfMag_splits h, unitsOfMag_splits (h.succ hk), Nat.add_mul]
  have := Nat.two_pow_pos s
  omega

@[simp] theorem unitsOfMag_zero (F : NumFormat) : F.unitsOfMag 0 = 0 := if_pos (Nat.two_pow_pos _)

/-- A step up from a pattern is at least one unit of its exponent, also from the carry. -/
theorem unitsOfMag_succ_ge {F : NumFormat} {s k : Nat} (h : F.Splits s k) :
    (k + 1) * 2 ^ s ≤ F.unitsOfMag (s * 2 ^ F.fracBits + k + 1) := by
  rcases Nat.lt_or_ge k (2 ^ (F.fracBits + 1)) with hk | hk
  · rw [Nat.add_assoc, unitsOfMag_splits (h.succ hk)]
  · obtain rfl : k = 2 ^ (F.fracBits + 1) := Nat.le_antisymm h.le hk
    have hpos : 0 < 2 ^ F.fracBits := Nat.two_pow_pos _
    have hs : F.Splits (s + 1) (2 ^ F.fracBits + 1) := ⟨by rw [Nat.pow_succ]; omega, .inr (by omega)⟩
    have hp : s * 2 ^ F.fracBits + 2 ^ (F.fracBits + 1) + 1 = (s + 1) * 2 ^ F.fracBits + (2 ^ F.fracBits + 1) := by
      rw [Nat.pow_succ]; ring
    rw [hp, unitsOfMag_splits hs, Nat.pow_succ, Nat.pow_succ]
    have := Nat.two_pow_pos s
    nlinarith

/-- A step down from a significand that is not the first of its exponent. -/
theorem unitsOfMag_pred {F : NumFormat} {s k : Nat} (h : F.Splits s (k + 1)) (hk : s = 0 ∨ 2 ^ F.fracBits ≤ k) :
    F.unitsOfMag (s * 2 ^ F.fracBits + k) = k * 2 ^ s :=
  unitsOfMag_splits ⟨Nat.le_of_succ_le h.le, hk⟩

/-! ### Rounding to an integer -/

/-- `k` is `n / d` rounded to the nearest integer, ties to even. -/
structure RoundsTo (n d k : Nat) : Prop where
  below : 2 * n ≤ 2 * (k * d) + d
  above : 2 * (k * d) ≤ 2 * n + d
  tieBelow : 2 * n = 2 * (k * d) + d → k % 2 = 0
  tieAbove : 2 * (k * d) = 2 * n + d → k % 2 = 0

theorem roundDiv_roundsTo (n : Nat) {d : Nat} (hd : 0 < d) : RoundsTo n d (roundDiv n d) := by
  have hn := Nat.div_add_mod n d
  have hr := Nat.mod_lt n hd
  rw [Nat.mul_comm] at hn
  unfold roundDiv
  generalize n / d = q at *
  generalize n % d = r at *
  have hsucc : (q + 1) * d = q * d + d := Nat.succ_mul q d
  dsimp only
  split
  · constructor <;> rw [hsucc] <;> omega
  · constructor <;> omega

/-! ### What `roundMag` delivers -/

/-- `roundMag n d` is `s * 2^f + k`, or an infinity where that is one: `k` is the significand of `n / d`, rounded. -/
structure Significand (F : NumFormat) (n d s k : Nat) : Prop where
  splits : F.Splits s k
  rounds : RoundsTo n (d * 2 ^ s) k
  leading : s = 0 ∨ 2 ^ F.fracBits * (d * 2 ^ s) ≤ n
  fits : n < 2 ^ (F.fracBits + 1) * (d * 2 ^ s)

theorem exists_significand (F : NumFormat) (n : Nat) {d : Nat} (hd : 0 < d) :
    ∃ s k, F.Significand n d s k ∧ F.roundMag n d = Min.min (s * 2 ^ F.fracBits + k) F.infMag := by
  generalize hs : Nat.log2 (n / d) - F.fracBits = s
  have hD : 0 < d * 2 ^ s := Nat.mul_pos hd (Nat.two_pow_pos _)
  have hround := roundDiv_roundsTo n hD
  have hfits : n < 2 ^ (F.fracBits + 1) * (d * 2 ^ s) := by
    have hlog : n / d < 2 ^ (F.fracBits + 1 + s) := by
      refine Nat.lt_of_lt_of_le Nat.lt_log2_self ?_
      exact Nat.pow_le_pow_right (by decide) (by omega)
    rw [Nat.div_lt_iff_lt_mul hd, Nat.pow_add] at hlog
    calc n < 2 ^ (F.fracBits + 1) * 2 ^ s * d := hlog
      _ = 2 ^ (F.fracBits + 1) * (d * 2 ^ s) := by ring
  have hleading : s = 0 ∨ 2 ^ F.fracBits * (d * 2 ^ s) ≤ n := by
    rcases Nat.eq_zero_or_pos s with h0 | hpos
    · exact .inl h0
    · have hne : n / d ≠ 0 := by
        intro h
        rw [h, Nat.log2_zero] at hs
        omega
      have hlog : 2 ^ (F.fracBits + s) ≤ n / d := by
        rw [show F.fracBits + s = Nat.log2 (n / d) by omega]
        exact Nat.log2_self_le hne
      rw [Nat.le_div_iff_mul_le hd, Nat.pow_add] at hlog
      refine .inr ?_
      calc 2 ^ F.fracBits * (d * 2 ^ s) = 2 ^ F.fracBits * 2 ^ s * d := by ring
        _ ≤ n := hlog
  refine ⟨s, roundDiv n (d * 2 ^ s), ⟨⟨?_, ?_⟩, hround, hleading, hfits⟩, ?_⟩
  · have := hround.above
    by_contra hlt
    nlinarith
  · refine hleading.imp_right fun hlead => ?_
    have := hround.below
    by_contra hlt
    nlinarith
  · unfold roundMag
    rw [hs]

/-- The distance of `n / d` units from a pattern's value, in `d`-ths of a unit. -/
def offBy (F : NumFormat) (n d q : Nat) : Nat := ((n : Int) - d * F.unitsOfMag q).natAbs

theorem offBy_eq (F : NumFormat) (n d q : Nat) :
    F.offBy n d q = Max.max (n - d * F.unitsOfMag q) (d * F.unitsOfMag q - n) := by
  unfold offBy
  have hcast : (d : Int) * F.unitsOfMag q = ((d * F.unitsOfMag q : Nat) : Int) := by push_cast; ring
  rw [hcast]
  omega

/-- A pattern above the rounded one is at least as far off, and as far only in a tie that left `k` even. -/
theorem Significand.off_of_gt {F : NumFormat} {n d s k q : Nat} (h : F.Significand n d s k)
    (hq : s * 2 ^ F.fracBits + k < q) :
    F.offBy n d (s * 2 ^ F.fracBits + k) ≤ F.offBy n d q ∧
      (F.offBy n d (s * 2 ^ F.fracBits + k) = F.offBy n d q → k % 2 = 0) := by
  have hunits : (k + 1) * 2 ^ s ≤ F.unitsOfMag q :=
    Nat.le_trans (unitsOfMag_succ_ge h.splits) (F.unitsOfMag_strictMono.monotone hq)
  have hstep : k * (d * 2 ^ s) + d * 2 ^ s ≤ d * F.unitsOfMag q := by
    calc k * (d * 2 ^ s) + d * 2 ^ s = d * ((k + 1) * 2 ^ s) := by ring
      _ ≤ d * F.unitsOfMag q := Nat.mul_le_mul_left d hunits
  have hval : d * F.unitsOfMag (s * 2 ^ F.fracBits + k) = k * (d * 2 ^ s) := by
    rw [unitsOfMag_splits h.splits]; ring
  obtain ⟨hbelow, habove, htieBelow, htieAbove⟩ := h.rounds
  rw [offBy_eq, offBy_eq, hval]
  omega

/-- A pattern below the rounded one is at least as far off, and as far only in a tie that left `k` even. Below the first
significand of an exponent the patterns are denser, but there `n / d` is not below the rounded value. -/
theorem Significand.off_of_lt {F : NumFormat} {n d s k q : Nat} (hd : 0 < d) (h : F.Significand n d s k)
    (hq : q < s * 2 ^ F.fracBits + k) :
    F.offBy n d (s * 2 ^ F.fracBits + k) ≤ F.offBy n d q ∧
      (F.offBy n d (s * 2 ^ F.fracBits + k) = F.offBy n d q → k % 2 = 0) := by
  have hval : d * F.unitsOfMag (s * 2 ^ F.fracBits + k) = k * (d * 2 ^ s) := by
    rw [unitsOfMag_splits h.splits]; ring
  obtain ⟨hbelow, habove, htieBelow, htieAbove⟩ := h.rounds
  by_cases hfirst : s ≠ 0 ∧ k = 2 ^ F.fracBits
  · obtain ⟨hs, rfl⟩ := hfirst
    have hlead := h.leading.resolve_left hs
    have hlt := Nat.mul_lt_mul_of_pos_left (F.unitsOfMag_strictMono hq) hd
    rw [hval] at hlt
    rw [offBy_eq, offBy_eq, hval]
    omega
  · obtain ⟨j, rfl⟩ : ∃ j, k = j + 1 := by
      refine Nat.exists_eq_succ_of_ne_zero fun h0 => ?_
      subst h0
      rcases h.splits.normal with rfl | hn
      · omega
      · have := Nat.two_pow_pos F.fracBits
        omega
    have hj : s = 0 ∨ 2 ^ F.fracBits ≤ j := by
      have := h.splits.normal
      omega
    have hunits : F.unitsOfMag q ≤ j * 2 ^ s := by
      rw [← unitsOfMag_pred h.splits hj]
      exact F.unitsOfMag_strictMono.monotone (Nat.le_of_lt_succ hq)
    have hstep : d * F.unitsOfMag q + d * 2 ^ s ≤ (j + 1) * (d * 2 ^ s) := by
      calc d * F.unitsOfMag q + d * 2 ^ s ≤ d * (j * 2 ^ s) + d * 2 ^ s :=
            Nat.add_le_add_right (Nat.mul_le_mul_left d hunits) _
        _ = (j + 1) * (d * 2 ^ s) := by ring
    rw [offBy_eq, offBy_eq, hval]
    omega

/-- Rounding delivers a nearest pattern, the even one of two equally near. -/
theorem roundMag_nearest (F : NumFormat) (n : Nat) {d q : Nat} (hd : 0 < d) (hp : F.roundMag n d < F.infMag)
    (hq : q ≠ F.roundMag n d) :
    F.offBy n d (F.roundMag n d) ≤ F.offBy n d q ∧
      (F.offBy n d (F.roundMag n d) = F.offBy n d q → F.roundMag n d % 2 = 0) := by
  obtain ⟨s, k, hsig, hround⟩ := F.exists_significand n hd
  have heq : F.roundMag n d = s * 2 ^ F.fracBits + k := by omega
  have heven : (s * 2 ^ F.fracBits + k) % 2 = k % 2 := by
    rw [Nat.add_mod, Nat.mul_mod, F.two_pow_fracBits_even]
    simp
  rw [heq] at hq ⊢
  rw [heven]
  rcases Nat.lt_or_gt_of_ne hq with hlt | hgt
  · exact hsig.off_of_lt hd hlt
  · exact hsig.off_of_gt hgt

/-! ### Overflow -/

/-- The midpoint between the largest finite value and the value that would come after it, in units. -/
def overflowAt (F : NumFormat) : Nat := (2 ^ (F.fracBits + 2) - 1) * 2 ^ (2 ^ F.expBits - 4)

/-- The largest finite pattern has exponent `2^e - 3`, counted from the subnormals, and a significand of ones. -/
theorem infMag_eq (F : NumFormat) : F.infMag = (2 ^ F.expBits - 3) * 2 ^ F.fracBits + 2 ^ (F.fracBits + 1) := by
  have h4 := F.four_le_two_pow_expBits
  unfold infMag
  rw [Nat.pow_succ, show 2 ^ F.expBits - 1 = (2 ^ F.expBits - 3) + 2 by omega]
  ring

/-- The midpoint, doubled: half a unit of the last exponent below its carry. -/
theorem two_mul_overflowAt (F : NumFormat) :
    2 * F.overflowAt + 2 ^ (2 ^ F.expBits - 3) = 4 * (2 ^ F.fracBits * 2 ^ (2 ^ F.expBits - 3)) := by
  have h4 := F.four_le_two_pow_expBits
  have hlast : 2 ^ (2 ^ F.expBits - 3) = 2 * 2 ^ (2 ^ F.expBits - 4) := by
    rw [show 2 ^ F.expBits - 3 = 2 ^ F.expBits - 4 + 1 by omega, Nat.pow_succ, Nat.mul_comm]
  have hle : 2 ^ (2 ^ F.expBits - 4) ≤ 4 * 2 ^ F.fracBits * 2 ^ (2 ^ F.expBits - 4) :=
    Nat.le_mul_of_pos_left _ (Nat.mul_pos (by decide) (Nat.two_pow_pos _))
  have hval : 2 ^ F.fracBits * (2 * 2 ^ (2 ^ F.expBits - 4)) = 2 * (2 ^ F.fracBits * 2 ^ (2 ^ F.expBits - 4)) := by
    ring
  unfold overflowAt
  rw [Nat.pow_add, Nat.mul_comm _ (2 ^ 2), show 2 ^ 2 = 4 from rfl, Nat.sub_mul, hlast, hval]
  rw [Nat.mul_assoc] at hle ⊢
  omega

/-- Every finite pattern stands for less than the midpoint. -/
theorem unitsOfMag_lt_overflowAt {F : NumFormat} {p : Nat} (hp : p < F.infMag) : F.unitsOfMag p < F.overflowAt := by
  have hpos := Nat.two_pow_pos F.fracBits
  have hlast := Nat.two_pow_pos (2 ^ F.expBits - 3)
  have hmid := F.two_mul_overflowAt
  have hcarry : 2 ^ (F.fracBits + 1) = 2 * 2 ^ F.fracBits := Nat.pow_succ'
  have hmax : F.unitsOfMag (F.infMag - 1) = (2 * 2 ^ F.fracBits - 1) * 2 ^ (2 ^ F.expBits - 3) := by
    rw [infMag_eq, hcarry, Nat.add_sub_assoc (by omega)]
    exact unitsOfMag_splits ⟨by omega, .inr (by omega)⟩
  have hle : F.unitsOfMag p ≤ F.unitsOfMag (F.infMag - 1) := F.unitsOfMag_strictMono.monotone (by omega)
  have hval : (2 * 2 ^ F.fracBits - 1) * 2 ^ (2 ^ F.expBits - 3) =
      2 * (2 ^ F.fracBits * 2 ^ (2 ^ F.expBits - 3)) - 2 ^ (2 ^ F.expBits - 3) := by
    rw [Nat.sub_mul, Nat.mul_assoc, Nat.one_mul]
  have hprod := Nat.mul_le_mul_right (2 ^ (2 ^ F.expBits - 3)) hpos
  rw [hmax, hval] at hle
  omega

/-- An infinity is delivered exactly from the midpoint above the largest finite value on: at the last exponent the
rounding decides, since a significand of ones is odd; at another, the exponent alone. -/
theorem roundMag_eq_infMag_iff (F : NumFormat) (n : Nat) {d : Nat} (hd : 0 < d) :
    F.roundMag n d = F.infMag ↔ d * F.overflowAt ≤ n := by
  obtain ⟨s, k, ⟨⟨hle, hnormal⟩, ⟨hbelow, habove, htieBelow, -⟩, hleading, hfits⟩, hround⟩ := F.exists_significand n hd
  have hmid : 2 * (d * F.overflowAt) + d * 2 ^ (2 ^ F.expBits - 3) =
      4 * (2 ^ F.fracBits * (d * 2 ^ (2 ^ F.expBits - 3))) := by
    linear_combination d * F.two_mul_overflowAt
  have hinf : F.roundMag n d = F.infMag ↔
      (2 ^ F.expBits - 3) * 2 ^ F.fracBits + 2 ^ (F.fracBits + 1) ≤ s * 2 ^ F.fracBits + k := by
    rw [hround, ← infMag_eq]
    omega
  have hpos := Nat.two_pow_pos F.fracBits
  rw [hinf]
  rw [Nat.pow_succ'] at hle hfits ⊢
  generalize 2 ^ F.expBits - 3 = e at *
  generalize 2 ^ F.fracBits = f at *
  generalize d * F.overflowAt = o at *
  rcases Nat.lt_trichotomy s e with hs | rfl | hs
  · have hexp : s * f + f ≤ e * f := by rw [← Nat.succ_mul]; exact Nat.mul_le_mul_right f hs
    have hunit : 2 * (d * 2 ^ s) ≤ d * 2 ^ e := by
      calc 2 * (d * 2 ^ s) = d * 2 ^ (s + 1) := by ring
        _ ≤ d * 2 ^ e := Nat.mul_le_mul_left d (Nat.pow_le_pow_right (by decide) hs)
    have hsmall : n < o := by nlinarith
    exact iff_of_false (by omega) (by omega)
  · have hD : 0 < d * 2 ^ s := Nat.mul_pos hd (Nat.two_pow_pos _)
    constructor
    · intro hk
      have hk' : 2 * f ≤ k := by omega
      nlinarith
    · intro hn
      by_contra hlt
      have hk : k + 1 ≤ 2 * f := by omega
      have heq : k + 1 = 2 * f := by
        by_contra hne
        have : k + 2 ≤ 2 * f := by omega
        nlinarith
      have hodd : k % 2 = 1 := by omega
      have htie : 2 * n = 2 * (k * (d * 2 ^ s)) + d * 2 ^ s := by
        have : (k + 1) * (d * 2 ^ s) = 2 * (f * (d * 2 ^ s)) := by rw [heq]; ring
        rw [Nat.succ_mul] at this
        omega
      rw [htieBelow htie] at hodd
      cases hodd
  · have hs0 : s ≠ 0 := by omega
    have hexp : e * f + f ≤ s * f := by rw [← Nat.succ_mul]; exact Nat.mul_le_mul_right f hs
    have hk := hnormal.resolve_left hs0
    have hunit : 2 * (d * 2 ^ e) ≤ d * 2 ^ s := by
      calc 2 * (d * 2 ^ e) = d * 2 ^ (e + 1) := by ring
        _ ≤ d * 2 ^ s := Nat.mul_le_mul_left d (Nat.pow_le_pow_right (by decide) hs)
    have hlarge : o ≤ n := by
      have := hleading.resolve_left hs0
      nlinarith
    exact iff_of_true (by omega) hlarge

/-! ### Exact results -/

/-- A value of the format is delivered as it is. -/
theorem roundMag_exact {F : NumFormat} {p c : Nat} (hp : p < F.infMag) (hc : 0 < c) :
    F.roundMag (F.unitsOfMag p * c) c = p := by
  have hfin : F.roundMag (F.unitsOfMag p * c) c < F.infMag := by
    refine Nat.lt_of_le_of_ne (F.roundMag_le _ _) fun hinf => ?_
    rw [roundMag_eq_infMag_iff _ _ hc, Nat.mul_comm _ c] at hinf
    exact absurd (unitsOfMag_lt_overflowAt hp) (Nat.not_lt.2 (Nat.le_of_mul_le_mul_left hinf hc))
  by_contra hne
  obtain ⟨hnear, -⟩ := roundMag_nearest F _ hc hfin (Ne.symm hne)
  rw [offBy_eq, offBy_eq, Nat.mul_comm _ c] at hnear
  refine hne (F.unitsOfMag_strictMono.injective (Nat.eq_of_mul_eq_mul_left hc ?_))
  rw [Nat.mul_comm _ c]
  omega

theorem roundMag_unitsOfMag {F : NumFormat} {p : Nat} (hp : p < F.infMag) : F.roundMag (F.unitsOfMag p) 1 = p := by
  have := roundMag_exact hp Nat.one_pos
  rwa [Nat.mul_one] at this

@[simp] theorem roundMag_zero (F : NumFormat) {d : Nat} (hd : 0 < d) : F.roundMag 0 d = 0 := by
  have := roundMag_exact F.infMag_pos hd
  rwa [unitsOfMag_zero, Nat.zero_mul] at this

/-- A value of at most that of a finite pattern is rounded to at most that pattern. -/
theorem roundMag_le_of_le {F : NumFormat} {n q : Nat} (hq : q < F.infMag) (hn : n ≤ F.unitsOfMag q) :
    F.roundMag n 1 ≤ q := by
  by_contra hgt
  have hfin : F.roundMag n 1 < F.infMag := by
    refine Nat.lt_of_le_of_ne (F.roundMag_le _ _) fun hinf => ?_
    rw [roundMag_eq_infMag_iff _ _ Nat.one_pos] at hinf
    have := unitsOfMag_lt_overflowAt hq
    omega
  obtain ⟨hnear, -⟩ := roundMag_nearest F n (q := q) Nat.one_pos hfin (by omega)
  have hlt := F.unitsOfMag_strictMono (Nat.not_le.1 hgt)
  rw [offBy_eq, offBy_eq] at hnear
  omega

/-! ### What the operations deliver -/

theorem settle_eq (F : NumFormat) (p : Nat) :
    F.settle p = if F.flush = true ∧ p < 2 ^ F.fracBits then 0 else p := by
  simp [settle]

@[simp] theorem settle_zero (F : NumFormat) : F.settle 0 = 0 := Nat.le_zero.1 (F.settle_le 0)

/-- A sum or a difference of `z` units: the rounded magnitude, and the sign of `z`, or the one given for an exact zero. -/
theorem roundInt_spec (F : NumFormat) (z : Int) (negZero : Bool) :
    (F.roundInt z negZero).mag = F.settle (F.roundMag z.natAbs 1) ∧
      (F.roundInt z negZero).isNeg = if z = 0 then negZero else decide (z < 0) := by
  unfold roundInt
  split
  next h =>
    subst h
    rw [NUM.ofSignMag_mag _ _ (by decide), NUM.ofSignMag_isNeg _ _ (by decide), Int.natAbs_zero,
      roundMag_zero F Nat.one_pos, settle_zero]
    exact ⟨rfl, rfl⟩
  next h => exact (F.deliver_spec (decide (z < 0)) z.natAbs 1).symm

theorem finite2_of_finite {F : NumFormat} {a b : NUM} (ha : F.isFinite a = true) (hb : F.isFinite b = true) :
    F.finite2 a b = true := by
  rw [finite2, ha, hb]
  rfl

theorem add_of_finite {F : NumFormat} {a b : NUM} (ha : F.isFinite a = true) (hb : F.isFinite b = true) :
    F.add a b = F.roundInt (F.toInt a + F.toInt b) (a.isNeg && b.isNeg) :=
  if_pos (finite2_of_finite ha hb)

theorem sub_of_finite {F : NumFormat} {a b : NUM} (ha : F.isFinite a = true) (hb : F.isFinite b = true) :
    F.sub a b = F.roundInt (F.toInt a - F.toInt b) (a.isNeg && !b.isNeg) :=
  if_pos (finite2_of_finite ha hb)

theorem mul_of_finite {F : NumFormat} {a b : NUM} (ha : F.isFinite a = true) (hb : F.isFinite b = true) :
    F.mul a b = F.deliver (a.isNeg != b.isNeg) (F.units a * F.units b) (2 ^ F.unitExp) :=
  if_pos (finite2_of_finite ha hb)

theorem div_of_finite {F : NumFormat} {a b : NUM} (ha : F.isFinite a = true) (hb : F.isFinite b = true)
    (h : F.units b ≠ 0) :
    F.div a b = F.deliver (a.isNeg != b.isNeg) (F.units a * 2 ^ F.unitExp) (F.units b) :=
  (if_pos (finite2_of_finite ha hb)).trans (if_pos h)

/-- A non-zero dividend over zero is an infinity. -/
theorem div_zero_of_finite {F : NumFormat} {a b : NUM} (ha : F.isFinite a = true) (hb : F.isFinite b = true)
    (h : F.units b = 0) (h0 : F.units a ≠ 0) : F.div a b = .ofSignMag (a.isNeg != b.isNeg) F.infMag :=
  (if_pos (finite2_of_finite ha hb)).trans ((if_neg (not_not.2 h)).trans (if_pos h0))

theorem zero_div_zero_of_finite {F : NumFormat} {a b : NUM} (ha : F.isFinite a = true) (hb : F.isFinite b = true)
    (h : F.units b = 0) (h0 : F.units a = 0) : F.div a b = F.invalid .div a b :=
  (if_pos (finite2_of_finite ha hb)).trans ((if_neg (not_not.2 h)).trans (if_neg (not_not.2 h0)))

end NumFormat

open NumFormat in
/-- Settles O59: the rounding of a quotient, its overflow, and then each operation as that rounding. -/
theorem roundingIsToNearestEven : Obligations.RoundingIsToNearestEven := by
  unfold Obligations.RoundingIsToNearestEven
  refine ⟨fun F n d hd => ⟨fun hp q _ hq => roundMag_nearest F n hd hp hq, roundMag_eq_infMag_iff F n hd⟩,
    fun F a b ha hb => ?_⟩
  simp only [← settle_eq]
  refine ⟨?_, ?_, ?_, fun h => ?_, fun h h0 => ?_, fun h h0 => ?_⟩
  · rw [add_of_finite ha hb]
    exact roundInt_spec F _ _
  · rw [sub_of_finite ha hb]
    exact roundInt_spec F _ _
  · rw [mul_of_finite ha hb]
    exact (F.deliver_spec _ _ _).symm
  · rw [div_of_finite ha hb h]
    exact (F.deliver_spec _ _ _).symm
  · rw [div_zero_of_finite ha hb h h0]
    exact ⟨NUM.ofSignMag_mag _ _ F.infMag_lt, NUM.ofSignMag_isNeg _ _ F.infMag_lt⟩
  · rw [zero_div_zero_of_finite ha hb h h0]
    exact F.invalid_isNaN .div a b

/-! ### Maximum, minimum, clamp -/

namespace NumFormat

theorem max_of_finite {F : NumFormat} {a b : NUM} (ha : F.isFinite a = true) (hb : F.isFinite b = true) :
    F.max a b = if b.key < a.key then a else b := by
  simp [max, gt, test, finite2_of_finite ha hb]

theorem min_of_finite {F : NumFormat} {a b : NUM} (ha : F.isFinite a = true) (hb : F.isFinite b = true) :
    F.min a b = if a.key < b.key then a else b := by
  simp [min, lt, test, finite2_of_finite ha hb]

/-- `clamp` on finite words: the larger of the value and the lower bound, or the upper bound where that is not below
it. -/
theorem clamp_of_finite {F : NumFormat} {v lo hi : NUM} (hv : F.isFinite v = true) (hl : F.isFinite lo = true)
    (hh : F.isFinite hi = true) :
    F.clamp v lo hi =
      if lo.key < v.key then (if v.key < hi.key then v else hi) else (if lo.key < hi.key then lo else hi) := by
  rw [clamp, max_of_finite hv hl]
  split
  · rw [min_of_finite hv hh]
  · rw [min_of_finite hl hh]

end NumFormat

/-- Settles O60: each clause picks its branch of the two comparisons. -/
theorem clampStaysBetweenItsBounds : Obligations.ClampStaysBetweenItsBounds := by
  unfold Obligations.ClampStaysBetweenItsBounds
  intro F v lo hi hv hl hh
  rw [NumFormat.clamp_of_finite hv hl hh]
  refine ⟨fun h1 h2 => ?_, fun h1 h2 => ?_, fun h => ?_, fun h => ?_⟩
  · rw [if_pos h1, if_pos h2]
  · rw [if_neg (by omega), if_pos h2]
  · rw [if_neg (by omega : ¬ v.key < hi.key)]
    split
    · rfl
    · exact if_neg (by omega)
  · rw [if_neg (by omega : ¬ lo.key < hi.key)]
    split
    · exact if_neg (by omega)
    · rfl

end Sys2Proof

/-! BQ and CH (41_biquad.md, 42_chain.md): their headers, what each command does once prepared, the identity section, the
repetition of responses after a reset, and the stages of a chain in series. -/

namespace Sys2Proof

/-! ### Words that an operation gives back (41 R142) -/

theorem NUM.ext_of_sign_mag {x y : NUM} (hn : x.isNeg = y.isNeg) (hm : x.mag = y.mag) : x = y := by
  rw [← NUM.ofSignMag_eta x, ← NUM.ofSignMag_eta y, hn, hm]

namespace NumFormat

theorem isFinite_of_mag_eq_zero {F : NumFormat} {x : NUM} (h : x.mag = 0) : F.isFinite x = true :=
  decide_eq_true (h ▸ F.infMag_pos)

theorem mag_lt_of_finite {F : NumFormat} {x : NUM} (h : F.isFinite x = true) : x.mag < F.infMag :=
  of_decide_eq_true h

theorem units_of_mag_eq_zero {F : NumFormat} {x : NUM} (h : x.mag = 0) : F.units x = 0 := by
  rw [units, h, unitsOfMag_zero]

theorem units_eq_zero_iff {F : NumFormat} {x : NUM} : F.units x = 0 ↔ x.mag = 0 := by
  have := F.unitsOfMag_strictMono.injective.eq_iff (a := x.mag) (b := 0)
  rwa [unitsOfMag_zero] at this

theorem natAbs_toInt (F : NumFormat) (x : NUM) : (F.toInt x).natAbs = F.units x := by
  unfold toInt
  split <;> omega

theorem toInt_of_mag_eq_zero {F : NumFormat} {x : NUM} (h : x.mag = 0) : F.toInt x = 0 := by
  rw [← Int.natAbs_eq_zero, natAbs_toInt, units_of_mag_eq_zero h]

theorem toInt_eq_zero_iff {F : NumFormat} {x : NUM} : F.toInt x = 0 ↔ x.mag = 0 := by
  rw [← Int.natAbs_eq_zero, natAbs_toInt, units_eq_zero_iff]

theorem toInt_of_not_neg {F : NumFormat} {x : NUM} (h : x.isNeg = false) : F.toInt x = F.units x := by
  simp [toInt, h]

theorem toInt_lt_zero {F : NumFormat} {x : NUM} (h : x.mag ≠ 0) : decide (F.toInt x < 0) = x.isNeg := by
  have hu : F.units x ≠ 0 := mt units_eq_zero_iff.1 h
  unfold toInt
  cases x.isNeg
  · simp
  · simp; omega

end NumFormat

open NumFormat

theorem deliverable_iff {F : NumFormat} {x : NUM} :
    Machine.deliverable F x = true ↔ F.isFinite x = true ∧ (F.flush = false ∨ x.mag = 0 ∨ 2 ^ F.fracBits ≤ x.mag) := by
  simp [Machine.deliverable, or_assoc]

theorem finite_of_deliverable {F : NumFormat} {x : NUM} (h : Machine.deliverable F x = true) : F.isFinite x = true :=
  (deliverable_iff.1 h).1

theorem deliverable_of_mag_eq_zero {F : NumFormat} {x : NUM} (h : x.mag = 0) : Machine.deliverable F x = true :=
  deliverable_iff.2 ⟨isFinite_of_mag_eq_zero h, .inr (.inl h)⟩

/-- Only the magnitude counts. -/
theorem deliverable_abs {F : NumFormat} {x : NUM} (h : Machine.deliverable F x = true) :
    Machine.deliverable F x.abs = true := by
  simpa [Machine.deliverable, NumFormat.isFinite] using h

/-- A deliverable magnitude is delivered as it is. -/
theorem settle_of_deliverable {F : NumFormat} {x : NUM} (h : Machine.deliverable F x = true) :
    F.settle x.mag = x.mag := by
  obtain ⟨-, hflush | hzero | hnormal⟩ := deliverable_iff.1 h
  · exact settle_of_not_flush hflush _
  · rw [hzero, settle_zero]
  · exact settle_of_normal F hnormal

namespace NumFormat

/-- A sum or difference that is exactly a deliverable word has that word's magnitude, and is that word, but for the sign
of a zero. -/
theorem roundInt_toInt {F : NumFormat} {x : NUM} (h : Machine.deliverable F x = true) (negZero : Bool) :
    (F.roundInt (F.toInt x) negZero).mag = x.mag ∧
      (x.mag ≠ 0 ∨ negZero = x.isNeg → F.roundInt (F.toInt x) negZero = x) := by
  obtain ⟨hmag, hneg⟩ := F.roundInt_spec (F.toInt x) negZero
  rw [natAbs_toInt, units, roundMag_unitsOfMag (mag_lt_of_finite (finite_of_deliverable h)),
    settle_of_deliverable h] at hmag
  refine ⟨hmag, fun hcase => NUM.ext_of_sign_mag ?_ hmag⟩
  rw [hneg]
  by_cases h0 : x.mag = 0
  · rw [if_pos (toInt_of_mag_eq_zero h0)]
    exact hcase.resolve_left (not_not.2 h0)
  · rw [if_neg (mt toInt_eq_zero_iff.1 h0), toInt_lt_zero h0]

/-- Adding a zero. -/
theorem add_zero_word {F : NumFormat} {x z : NUM} (h : Machine.deliverable F x = true) (hz : z.mag = 0) :
    (F.add x z).mag = x.mag ∧ (x.mag ≠ 0 ∨ x.isNeg = false → F.add x z = x) := by
  rw [add_of_finite (finite_of_deliverable h) (isFinite_of_mag_eq_zero hz), toInt_of_mag_eq_zero hz, Int.add_zero]
  obtain ⟨hmag, hsame⟩ := roundInt_toInt h (x.isNeg && z.isNeg)
  exact ⟨hmag, fun hcase => hsame (hcase.imp_right fun hn => by rw [hn, Bool.false_and])⟩

/-- Subtracting a zero. -/
theorem sub_zero_word {F : NumFormat} {x z : NUM} (h : Machine.deliverable F x = true) (hz : z.mag = 0) :
    (F.sub x z).mag = x.mag ∧ (x.mag ≠ 0 → F.sub x z = x) := by
  rw [sub_of_finite (finite_of_deliverable h) (isFinite_of_mag_eq_zero hz), toInt_of_mag_eq_zero hz, Int.sub_zero]
  obtain ⟨hmag, hsame⟩ := roundInt_toInt h (x.isNeg && !z.isNeg)
  exact ⟨hmag, fun h0 => hsame (.inl h0)⟩

/-- A zero times a finite word is a zero. -/
theorem zero_mul_mag {F : NumFormat} {y : NUM} (h : F.isFinite y = true) : (F.mul .zero y).mag = 0 := by
  rw [mul_of_finite F.isFinite_zero h, units_zero, Nat.zero_mul, (F.deliver_spec _ _ _).2,
    roundMag_zero F (Nat.two_pow_pos _), settle_zero]

/-- The pattern of 1.0: the exponent in the middle, and a significand of one. -/
theorem one_pattern (F : NumFormat) :
    ∃ p, p < F.infMag ∧ F.unitsOfMag p = 2 ^ F.unitExp ∧ F.one = .ofSignMag false p := by
  have he := F.two_le_expBits
  have h2 : 2 ≤ 2 ^ (F.expBits - 1) := Nat.pow_le_pow_right (n := 2) (i := 1) (by decide) (by omega)
  have hexp : 2 ^ F.expBits = 2 * 2 ^ (F.expBits - 1) := by
    rw [← Nat.pow_succ', Nat.succ_eq_add_one, Nat.sub_add_cancel (by omega)]
  have hfrac := Nat.two_pow_pos F.fracBits
  have hs : F.Splits (2 ^ (F.expBits - 1) - 2) (2 ^ F.fracBits) := ⟨by rw [Nat.pow_succ]; omega, .inr (Nat.le_refl _)⟩
  have hunits : F.unitsOfMag ((2 ^ (F.expBits - 1) - 2) * 2 ^ F.fracBits + 2 ^ F.fracBits) = 2 ^ F.unitExp := by
    rw [unitsOfMag_splits hs, ← Nat.pow_add, Nat.add_comm, unitExp]
  have hlt : (2 ^ (F.expBits - 1) - 2) * 2 ^ F.fracBits + 2 ^ F.fracBits < F.infMag := by
    rw [← Nat.succ_mul, infMag]
    exact Nat.mul_lt_mul_of_pos_right (by omega) hfrac
  refine ⟨_, hlt, hunits, ?_⟩
  rw [one, ofRat, Nat.one_mul, ← hunits, roundMag_unitsOfMag hlt]

theorem one_spec (F : NumFormat) : F.isFinite F.one = true ∧ F.units F.one = 2 ^ F.unitExp ∧ F.one.isNeg = false := by
  obtain ⟨p, hlt, hunits, hone⟩ := F.one_pattern
  have hmag : F.one.mag = p := by rw [hone, NUM.ofSignMag_mag _ _ (Nat.lt_trans hlt F.infMag_lt)]
  refine ⟨decide_eq_true (hmag ▸ hlt), by rw [units, hmag, hunits], ?_⟩
  rw [hone, NUM.ofSignMag_isNeg _ _ (Nat.lt_trans hlt F.infMag_lt)]

/-- 1.0 times a deliverable word is that word. -/
theorem one_mul_word {F : NumFormat} {x : NUM} (h : Machine.deliverable F x = true) : F.mul F.one x = x := by
  have hx := finite_of_deliverable h
  obtain ⟨hfin, hunits, hpos⟩ := F.one_spec
  rw [mul_of_finite hfin hx, hunits, hpos, Bool.false_bne, Nat.mul_comm]
  obtain ⟨hneg, hmag⟩ := F.deliver_spec x.isNeg (F.units x * 2 ^ F.unitExp) (2 ^ F.unitExp)
  rw [units, roundMag_exact (mag_lt_of_finite hx) (Nat.two_pow_pos _), settle_of_deliverable h] at hmag
  exact NUM.ext_of_sign_mag hneg hmag

end NumFormat

end Sys2Proof

/-! BQ and CH (41_biquad.md, 42_chain.md): what each command does once prepared, the identity section, the repetition of
responses after a reset, and the stages of a chain in series. -/

namespace Sys2Proof.Machine

open NumFormat

/-! ### BQ -/

theorem encode_bqSetc (c : Chan) (b0 b1 b2 a1 a2 : NUM) :
    encode (.bqSetc c b0 b1 b2 a1 a2) =
      [headerWord 0x10 c.code 0 0, b0.bits, b1.bits, b2.bits, a1.bits, a2.bits] := rfl

/-- Settles O29: the five words stand in the header's order, and the effect puts them in one set. -/
theorem bqSetcReplacesTheWholeSet : Obligations.BqSetcReplacesTheWholeSet := by
  unfold Obligations.BqSetcReplacesTheWholeSet
  intro s c b0 b1 b2 a1 a2 hprep
  constructor
  · cases c with
    | ch0 => exact encode_bqSetc .ch0 b0 b1 b2 a1 a2
    | ch1 => exact encode_bqSetc .ch1 b0 b1 b2 a1 a2
  · exact exec_silent_of_prep rfl hprep

/-- After an accepted PREPARE, BQ.STEP runs its section once. -/
theorem exec_bqStep_of_prep {s : State} (c : Chan) (x : NUM) (h : s.status.prep = true) :
    exec (.bqStep c x) s = .next (State.respond
      { s with bq := s.bq.set c (biquadRun s.cfg.num (s.bq.get c) x).2 }
      [(biquadRun s.cfg.num (s.bq.get c) x).1.bits]) :=
  exec_of_prep _ h

/-- Settles O30: the output and the new delay line of the recurrence, spelled out. -/
theorem bqStepRunsTheRecurrenceOnce : Obligations.BqStepRunsTheRecurrenceOnce := by
  unfold Obligations.BqStepRunsTheRecurrenceOnce
  intro s c x hprep
  constructor
  · cases c with
    | ch0 => rfl
    | ch1 => rfl
  · exact exec_bqStep_of_prep c x hprep

/-! ### The identity section -/

/-- A section whose set is the identity on a finite delay line: its output has the magnitude of its input, and is its input
where that is not a zero. Each of the five operations gives the value so far back. -/
theorem biquadOut_identity {F : NumFormat} {d : Delay} {x : NUM} (hd : Delay.finite F d = true)
    (hx : deliverable F x = true) :
    (biquadOut F (identityCoef F) d x).mag = x.mag ∧
      (x.mag ≠ 0 → biquadOut F (identityCoef F) d x = x) := by
  simp only [Delay.finite, Bool.and_eq_true] at hd
  obtain ⟨⟨⟨hx1, hx2⟩, hy1⟩, hy2⟩ := hd
  simp only [biquadOut, identityCoef, one_mul_word hx]
  by_cases h0 : x.mag = 0
  · have adds : ∀ {v y : NUM}, v.mag = 0 → F.isFinite y = true → (F.add v (F.mul .zero y)).mag = 0 :=
      fun hv hy => (add_zero_word (deliverable_of_mag_eq_zero hv) (zero_mul_mag hy)).1.trans hv
    have subs : ∀ {v y : NUM}, v.mag = 0 → F.isFinite y = true → (F.sub v (F.mul .zero y)).mag = 0 :=
      fun hv hy => (sub_zero_word (deliverable_of_mag_eq_zero hv) (zero_mul_mag hy)).1.trans hv
    exact ⟨(subs (subs (adds (adds h0 hx1) hx2) hy1) hy2).trans h0.symm, fun h => absurd h0 h⟩
  · have adds : ∀ {y : NUM}, F.isFinite y = true → F.add x (F.mul .zero y) = x :=
      fun hy => (add_zero_word hx (zero_mul_mag hy)).2 (.inl h0)
    have subs : ∀ {y : NUM}, F.isFinite y = true → F.sub x (F.mul .zero y) = x :=
      fun hy => (sub_zero_word hx (zero_mul_mag hy)).2 h0
    rw [adds hx1, adds hx2, subs hy1, subs hy2]
    exact ⟨rfl, fun _ => rfl⟩

theorem responds_respond {s u : State} (ws : List Word) (hp : u.ports = s.ports) (hc : u.cur = s.cur) :
    Responds s (u.respond ws) ws :=
  ⟨hc, by simp only [State.respond, hp, hc]⟩

/-- Settles O32: the answer is the output of the section. -/
theorem identityBiquadAnswersItsInput : Obligations.IdentityBiquadAnswersItsInput := by
  unfold Obligations.IdentityBiquadAnswersItsInput
  intro s c x hprep hcoef hfin hx
  obtain ⟨hmag, hsame⟩ := biquadOut_identity hfin hx
  rw [show identityCoef s.cfg.num = (s.bq.get c).coef from hcoef.symm] at hmag hsame
  exact ⟨_, _, exec_bqStep_of_prep c x hprep, responds_respond _ rfl rfl, hsame, fun h0 => hmag.trans h0⟩

/-! ### The same inputs after a reset -/

/-- The responses of a section to a list of inputs. -/
def sectionWords (F : NumFormat) : Biquad → List NUM → List Word
  | _, [] => []
  | b, x :: xs => (biquadRun F b x).1.bits :: sectionWords F (biquadRun F b x).2 xs

theorem sectionWords_length (F : NumFormat) (b : Biquad) (xs : List NUM) : (sectionWords F b xs).length = xs.length := by
  induction xs generalizing b with
  | nil => rfl
  | cons x xs ih => rw [sectionWords, List.length_cons, ih, List.length_cons]

theorem Responds.refl (s : State) : Responds s s [] := ⟨rfl, by rw [State.respond_nil]⟩

theorem Responds.trans {s t u : State} {ws vs : List Word} (h : Responds s t ws) (h' : Responds t u vs) :
    Responds s u (ws ++ vs) := by
  obtain ⟨hcur, hports⟩ := h
  obtain ⟨hcur', hports'⟩ := h'
  refine ⟨hcur'.trans hcur, ?_⟩
  rw [hports', ← State.respond_respond]
  simp only [State.respond, hports, hcur]

theorem runCommands_cons_of_next {i : Instr} {is : List Instr} {s t : State} (h : exec i s = .next t) :
    runCommands (i :: is) s = runCommands is t := by
  simp only [runCommands, h]

/-- BQ.STEPs answer the section's responses to their inputs, which depend on the section alone. -/
theorem runCommands_bqSteps {s : State} (c : Chan) (xs : List NUM) (h : s.status.prep = true) :
    ∃ t, runCommands (xs.map (.bqStep c)) s = .next t ∧ Responds s t (sectionWords s.cfg.num (s.bq.get c) xs) := by
  induction xs generalizing s with
  | nil => exact ⟨s, rfl, .refl s⟩
  | cons x xs ih =>
    have hexec := exec_bqStep_of_prep c x h
    generalize hu : State.respond { s with bq := s.bq.set c (biquadRun s.cfg.num (s.bq.get c) x).2 }
      [(biquadRun s.cfg.num (s.bq.get c) x).1.bits] = u at hexec
    have hnext : u.status.prep = true ∧ u.cfg = s.cfg ∧ u.bq.get c = (biquadRun s.cfg.num (s.bq.get c) x).2 ∧
        Responds s u [(biquadRun s.cfg.num (s.bq.get c) x).1.bits] := by
      subst hu
      exact ⟨h, rfl, Duo.get_set_same _ _ _, responds_respond _ rfl rfl⟩
    obtain ⟨hprep, hcfg, hbq, hresp⟩ := hnext
    obtain ⟨t, hrun, ht⟩ := ih hprep
    rw [hcfg, hbq] at ht
    exact ⟨t, (runCommands_cons_of_next hexec).trans hrun, hresp.trans ht⟩

/-- After BQ.RST the responses are those of the cleared section. -/
theorem runCommands_bqRst_bqSteps {s : State} (c : Chan) (xs : List NUM) (h : s.status.prep = true) :
    ∃ t, runCommands (.bqRst c :: xs.map (.bqStep c)) s = .next t ∧
      Responds s t (sectionWords s.cfg.num { coef := (s.bq.get c).coef, st := clearedDelay } xs) := by
  obtain ⟨t, hrun, ht⟩ := runCommands_bqSteps (s := { s with bq := s.bq.set c (clearBiquad (s.bq.get c)) }) c xs h
  rw [Duo.get_set_same] at ht
  exact ⟨t, (runCommands_cons_of_next (exec_bqRst_of_prep c h)).trans hrun, ht⟩

/-- Settles O33: the cleared section depends on its set alone. -/
theorem bqResponsesRepeatAfterReset : Obligations.BqResponsesRepeatAfterReset := by
  unfold Obligations.BqResponsesRepeatAfterReset
  intro s s' c xs hprep hprep' hnum hcoef
  obtain ⟨t, hrun, ht⟩ := runCommands_bqRst_bqSteps c xs hprep
  obtain ⟨t', hrun', ht'⟩ := runCommands_bqRst_bqSteps c xs hprep'
  rw [← hnum, ← hcoef] at ht'
  exact ⟨t, t', _, hrun, hrun', ht, ht', sectionWords_length _ _ _⟩

/-! ### CH.SETP -/

/-- CH.SETP's header: the type in bit 8 and the order request in bits 3:0, under the channel's header. -/
theorem encode_chSetp (c : Chan) (ty : FilterType) {orderReq : Nat} (freq : NUM) (h : orderReq < 16) :
    encode (.chSetp c ty orderReq freq) =
      [headerWord 0x20 c.code 0 0 + BitVec.ofNat 32 (ty.code * 2 ^ 8) + BitVec.ofNat 32 orderReq, freq.bits] := by
  rw [encode, Nat.mod_eq_of_lt h, headerWord_eq_add_imm, BitVec.ofNat_add, BitVec.add_assoc]

theorem nstage_le_four (n : StageCount) : n.toNat ≤ 4 := by
  cases n <;> decide

theorem one_le_nstage (n : StageCount) : 1 ≤ n.toNat := by
  cases n <;> decide

/-- The order request between 1 and NSTAGE. -/
theorem clampOrder_eq (n : StageCount) (orderReq : Nat) : clampOrder n orderReq = min (max orderReq 1) n.toNat := by
  have hn := one_le_nstage n
  unfold clampOrder
  split_ifs <;> omega

theorem clampOrder_bounds (n : StageCount) (orderReq : Nat) :
    1 ≤ clampOrder n orderReq ∧ clampOrder n orderReq ≤ n.toNat := by
  have hn := one_le_nstage n
  rw [clampOrder_eq]
  omega

/-- The stored order is the clamped request. -/
theorem toNat_ofNat_clampOrder (n : StageCount) (orderReq : Nat) :
    (BitVec.ofNat 32 (clampOrder n orderReq)).toNat = clampOrder n orderReq := by
  have hle := (clampOrder_bounds n orderReq).2
  have h4 := nstage_le_four n
  rw [BitVec.toNat_ofNat]
  exact Nat.mod_eq_of_lt (by omega)

/-- The Q table by rows and columns is that of the machine (40 R123). -/
theorem butterQ_eq_asWritten (k : Params) (order s : Nat) : butterQ k order s = stageQAsWritten k order s := by
  unfold butterQ stageQAsWritten
  split <;> simp_all [qOtherOrder]

/-- A stage's set is that of 40 R120 or R121, with the Q of the table. -/
theorem chainCoef_eq_asWritten (k : Params) (ty : FilterType) (f : NUM) (order i : Nat) (fs : NUM) :
    chainCoef k ty f order i fs = stageSetAsWritten k ty f order i fs := by
  cases ty with
  | lowPass => rw [chainCoef, butterQ_eq_asWritten]; rfl
  | highPass => rw [chainCoef, butterQ_eq_asWritten]; rfl

/-- What CH.SETP makes of a chain: parameters, sets, and what it leaves (42 R150, R151). -/
theorem setChain_order (k : Params) (fs : NUM) (ty : FilterType) (orderReq : Nat) (freq : NUM) (h : Chain) :
    (setChain k fs ty orderReq freq h).order.toNat = clampOrder k.nstage orderReq :=
  toNat_ofNat_clampOrder _ _

theorem setChain_st (k : Params) (fs : NUM) (ty : FilterType) (orderReq : Nat) (freq : NUM) (h : Chain) (i : Fin 4) :
    ((setChain k fs ty orderReq freq h).stage.get i).st = (h.stage.get i).st :=
  recomputeChain_st _ _ _ i

theorem setChain_coef (k : Params) (fs : NUM) (ty : FilterType) (orderReq : Nat) (freq : NUM) (h : Chain) (i : Fin 4) :
    ((setChain k fs ty orderReq freq h).stage.get i).coef =
      stageSetAsWritten k ty (clampFreq k fs freq) (clampOrder k.nstage orderReq) i fs := by
  rw [← chainCoef_eq_asWritten, ← setChain_order k fs ty orderReq freq h]
  exact recomputeChain_coef _ _ _ i

/-- For an order of 1 to 4 the table has no other row. -/
theorem stageQAsWritten_of_le (k : Params) {order : Nat} (i : Fin 4) (h1 : 1 ≤ order) (h4 : order ≤ 4) :
    stageQAsWritten k order i =
      if order = 1 then k.q1
      else if order = 2 then k.q2
      else if order = 3 then (if i = 0 then k.q3s0 else if i = 1 then k.q3s1 else k.qFill3)
      else (if i = 0 then k.q4s0 else if i = 1 then k.q4s1 else k.qFill4) := by
  have hcases : order = 1 ∨ order = 2 ∨ order = 3 ∨ order = 4 := by omega
  have h0 : (i.val = 0) = (i = 0) := by rw [Fin.ext_iff]; rfl
  have hi1 : (i.val = 1) = (i = 1) := by rw [Fin.ext_iff]; rfl
  rcases hcases with rfl | rfl | rfl | rfl <;> simp [stageQAsWritten, h0, hi1]

/-- Settles O34: the new chain is `setChain`'s; its sets are those of the clamped parameters. -/
theorem chSetpClampsAndRecomputes : Obligations.ChSetpClampsAndRecomputes := by
  unfold Obligations.ChSetpClampsAndRecomputes
  intro s c ty orderReq freq horder hprep
  constructor
  · rw [encode_chSetp c ty freq horder]
    cases c <;> cases ty <;> rfl
  · have hbounds := clampOrder_bounds s.cfg.nstage orderReq
    have h4 := nstage_le_four s.cfg.nstage
    refine ⟨_, exec_silent_of_prep rfl hprep, rfl, ?_, rfl, rfl, fun i => ⟨setChain_st _ _ _ _ _ _ i, ?_⟩⟩
    · rw [setChain_order, clampOrder_eq]
    · rw [setChain_coef, ← clampOrder_eq]
      cases ty with
      | lowPass => rw [stageSetAsWritten, stageQAsWritten_of_le s.cfg i hbounds.1 (by omega)]; rfl
      | highPass => rw [stageSetAsWritten, stageQAsWritten_of_le s.cfg i hbounds.1 (by omega)]; rfl

/-! ### CH.STEP -/

theorem inSeries_nil (F : NumFormat) (v : NUM) : inSeries F [] v = (v, []) := rfl

theorem inSeries_cons (F : NumFormat) (b : Biquad) (bs : List Biquad) (v : NUM) :
    inSeries F (b :: bs) v =
      ((inSeries F bs (biquadRun F b v).1).1, (biquadRun F b v).2 :: (inSeries F bs (biquadRun F b v).1).2) := rfl

/-- Stages in a chain of order `n`, the first of them number `i`: those below `n` run in series, the others are passed
by. -/
def runFrom (F : NumFormat) (n : Nat) : Nat → List Biquad → NUM → NUM × List Biquad
  | _, [], v => (v, [])
  | i, b :: bs, v =>
    ((runFrom F n (i + 1) bs (stageRun F n i b v).1).1,
      (stageRun F n i b v).2 :: (runFrom F n (i + 1) bs (stageRun F n i b v).1).2)

theorem runFrom_stageList (F : NumFormat) (n : Nat) (q : Four Biquad) (v : NUM) :
    runFrom F n 0 (stageList q) v = ((runStages F n q v).1, stageList (runStages F n q v).2) := rfl

theorem runFrom_eq_inSeries (F : NumFormat) (n i : Nat) (bs : List Biquad) (v : NUM) :
    runFrom F n i bs v =
      ((inSeries F (bs.take (n - i)) v).1, (inSeries F (bs.take (n - i)) v).2 ++ bs.drop (n - i)) := by
  induction bs generalizing i v with
  | nil => simp [runFrom, inSeries]
  | cons b bs ih =>
    rcases Nat.lt_or_ge i n with hlt | hge
    · rw [show n - i = n - (i + 1) + 1 by omega, List.take_succ_cons, List.drop_succ_cons, inSeries_cons, runFrom,
        stageRun, if_pos hlt, ih, List.cons_append]
    · rw [show n - i = 0 by omega, List.take_zero, List.drop_zero, inSeries_nil, runFrom, stageRun,
        if_neg (Nat.not_lt.2 hge), ih, show n - (i + 1) = 0 by omega, List.take_zero, List.drop_zero, inSeries_nil]
      rfl

/-- The first `n` stages of a chain in series, the others as they were (42 R153, R155 b). -/
theorem runStages_eq_inSeries (F : NumFormat) (n : Nat) (q : Four Biquad) (v : NUM) :
    (runStages F n q v).1 = (inSeries F ((stageList q).take n) v).1 ∧
      stageList (runStages F n q v).2 = (inSeries F ((stageList q).take n) v).2 ++ (stageList q).drop n := by
  have h := (runFrom_stageList F n q v).symm.trans (runFrom_eq_inSeries F n 0 (stageList q) v)
  exact ⟨congrArg Prod.fst h, congrArg Prod.snd h⟩

/-- Settles O36: a disabled chain is put back as it was; an enabled one holds its stages after the run. -/
theorem chStepRunsOrderStagesInSeries : Obligations.ChStepRunsOrderStagesInSeries := by
  unfold Obligations.ChStepRunsOrderStagesInSeries
  intro s c x hprep
  refine ⟨?_, fun hen => ?_, fun hen => ?_⟩
  · cases c with
    | ch0 => rfl
    | ch1 => rfl
  · have hrun : chainRun s.cfg.num (s.ch.get c) x = (x, s.ch.get c) := by simp [chainRun, hen]
    rw [exec_of_prep _ hprep, effect, answer, hrun, Duo.set_get]
  · obtain ⟨hout, hstages⟩ := runStages_eq_inSeries s.cfg.num (s.ch.get c).order.toNat (s.ch.get c).stage x
    refine ⟨_, hstages, ?_⟩
    rw [exec_of_prep _ hprep, effect, answer, chainRun, if_pos hen, hout]

end Sys2Proof.Machine

/-! DYN (43_dynamics.md): the setters, the followers, the gain computer and the stereo detector. -/

namespace Sys2Proof.Machine

open NumFormat

/-! ### Setters -/

/-- Settles O38: each is the effect of an accepted command. -/
theorem dynSettersClampAndStore : Obligations.DynSettersClampAndStore := by
  unfold Obligations.DynSettersClampAndStore
  intro s v hprep
  exact ⟨exec_silent_of_prep rfl hprep, exec_silent_of_prep rfl hprep, exec_silent_of_prep rfl hprep,
    exec_silent_of_prep rfl hprep, rfl, rfl, rfl, rfl⟩

/-- The one-pole coefficient of 40 R124, its constants spelled out. -/
theorem onePole_eq (F : NumFormat) (fs t : NUM) :
    onePole F fs t =
      F.sub F.one (Config.fexp F (F.div (F.ofRat 1 1).neg (F.mul (F.mul fs t) (F.ofRat 1 1000)))) := rfl

/-- Settles O39: the effect stores the clamped time and its one-pole coefficient. -/
theorem dynTimesRecomputeTheirCoefficient : Obligations.DynTimesRecomputeTheirCoefficient := by
  unfold Obligations.DynTimesRecomputeTheirCoefficient
  intro s v hprep
  simp only [← onePole_eq]
  exact ⟨exec_silent_of_prep rfl hprep, exec_silent_of_prep rfl hprep, rfl, rfl⟩

/-! ### The followers, channel by channel (43 R178) -/

/-- The slow copy after a level. -/
def slowNext (F : NumFormat) (d : Dyn) (c : Chan) (level : NUM) : NUM :=
  if d.auto then F.add (d.ar.get c) (F.mul d.arc (F.sub level (d.ar.get c))) else d.ar.get c

/-- The release coefficient in force after that. -/
def releaseNext (k : Params) (fs : NUM) (d : Dyn) (c : Chan) (level : NUM) : NUM :=
  if d.auto then onePole k.num fs (autoRelMs k (slowNext k.num d c level)) else d.relc

/-- The envelope after a level. -/
def envelopeNext (k : Params) (fs : NUM) (d : Dyn) (c : Chan) (level : NUM) : NUM :=
  envNext k.num d.attc (releaseNext k fs d c level) (d.env.get c) level

theorem trackLevel_eq (F : NumFormat) (d : Dyn) (c : Chan) (level : NUM) :
    trackLevel F d c level = { d with ar := d.ar.set c (slowNext F d c level) } := by
  unfold trackLevel slowNext
  split
  · rfl
  · rw [Duo.set_get]

/-- A follower writes its own slow copy and its own envelope, each from its own previous state. -/
theorem envAdvance_eq (k : Params) (fs : NUM) (d : Dyn) (c : Chan) (level : NUM) :
    envAdvance k fs d c level =
      { d with ar := d.ar.set c (slowNext k.num d c level), env := d.env.set c (envelopeNext k fs d c level) } := by
  rw [envAdvance, trackLevel_eq]
  simp only [releaseCoef, Duo.get_set_same]
  rfl

theorem envAdvance_env_get (k : Params) (fs : NUM) (d : Dyn) (c : Chan) (level : NUM) :
    (envAdvance k fs d c level).env.get c = envelopeNext k fs d c level := by
  rw [envAdvance_eq]
  exact Duo.get_set_same _ _ _

theorem envAdvance_ar_get (k : Params) (fs : NUM) (d : Dyn) (c : Chan) (level : NUM) :
    (envAdvance k fs d c level).ar.get c = slowNext k.num d c level := by
  rw [envAdvance_eq]
  exact Duo.get_set_same _ _ _

/-- After an accepted PREPARE, ENV.STEP advances one follower and answers its new envelope. -/
theorem exec_envStep_of_prep {s : State} (c : Chan) (level : NUM) (h : s.status.prep = true) :
    exec (.envStep c level) s = .next (State.respond
      { s with dyn := envAdvance s.cfg s.fs s.dyn c level } [(envelopeNext s.cfg s.fs s.dyn c level).bits]) := by
  rw [exec_of_prep _ h, effect, answer, envAdvance_env_get]

/-- AUTOREL_MAP by its cases, the line spelled out (43 R177). -/
theorem autoRelMs_eq (k : Params) (a : NUM) :
    autoRelMs k a =
      let line (place : NUM) := k.num.sub k.arRelMax (k.num.mul (k.num.sub k.arRelMax k.arRelMin) place)
      match k.autoRelMap with
      | .linear => line (k.num.clamp a .zero (k.num.ofRat 1 1))
      | .other lo hi fit =>
        let word := nearFormula fit (line (k.num.div (k.num.sub (k.num.clamp a lo hi) lo) (k.num.sub hi lo))).mag
          (fallingSteps fit.steps k.arRelMax.mag a)
        NUM.ofSignMag false (max k.arRelMin.mag (min k.arRelMax.mag word)) := by
  unfold autoRelMs
  cases k.autoRelMap <;> rfl

/-- Settles O41: the new slow copy and envelope, spelled out. -/
theorem envStepAdvancesOneFollower : Obligations.EnvStepAdvancesOneFollower := by
  unfold Obligations.EnvStepAdvancesOneFollower
  intro s c level hprep
  constructor
  · cases c with
    | ch0 => rfl
    | ch1 => rfl
  · rw [exec_envStep_of_prep c level hprep, envAdvance_eq]
    simp only [envelopeNext, releaseNext, slowNext, envNext, autoRelMs_eq] <;> rfl

/-! ### The gain computer -/

/-- KNEE_CURVE's three parts, with the default and the other blends inside the window (43 R181). -/
theorem kneeCurve_eq (k : Params) (x t w r : NUM) :
    kneeCurve k x t w r =
      let F := k.num
      let line := F.sub F.one (F.div F.one r)
      let half := F.div w (F.ofRat 2 1)
      let u := F.add (F.sub x t) half
      if F.le x (F.sub t half) then .zero
      else if F.ge x (F.add t half) then F.mul (F.sub x t) line
      else match k.kneeCurve with
        | .quadratic => F.div (F.mul line (F.mul u u)) (F.mul (F.ofRat 2 1) w)
        | .other span blend rows => kneeOther F span blend rows x t w r := by
  unfold kneeCurve
  cases k.kneeCurve <;> rfl

/-- Settles O42: the reduction by its parts, and the gain of it. -/
theorem gcEvalAnswersReductionAndGain : Obligations.GcEvalAnswersReductionAndGain := by
  unfold Obligations.GcEvalAnswersReductionAndGain
  intro s e hprep
  refine ⟨rfl, ?_⟩
  rw [exec_of_prep _ hprep, effect, answer, gcCompute, reduction, kneeCurve_eq]
  rfl

/-- The gain computer reads the threshold, the ratio and the knee alone. -/
theorem reduction_envAdvance (k : Params) (fs : NUM) (d : Dyn) (c : Chan) (level x : NUM) :
    reduction k (envAdvance k fs d c level) x = reduction k d x := by
  simp only [reduction, envAdvance_knee, envAdvance_thresh, envAdvance_ratio]

theorem gcCompute_envAdvance (k : Params) (fs : NUM) (d : Dyn) (c : Chan) (level e : NUM) :
    gcCompute k (envAdvance k fs d c level) e = gcCompute k d e := by
  simp only [gcCompute, reduction_envAdvance]

/-! ### The detector (43 R184) -/

/-- The second follower does not see that the first has advanced. -/
theorem slowNext_envAdvance_other (k : Params) (fs : NUM) (d : Dyn) {c c' : Chan} (l l' : NUM) (h : c' ≠ c) :
    slowNext k.num (envAdvance k fs d c l) c' l' = slowNext k.num d c' l' := by
  simp only [slowNext, envAdvance_auto, envAdvance_arc, envAdvance_ar_other k fs d l h]

theorem envelopeNext_envAdvance_other (k : Params) (fs : NUM) (d : Dyn) {c c' : Chan} (l l' : NUM) (h : c' ≠ c) :
    envelopeNext k fs (envAdvance k fs d c l) c' l' = envelopeNext k fs d c' l' := by
  simp only [envelopeNext, releaseNext, slowNext_envAdvance_other k fs d l l' h, envAdvance_auto, envAdvance_attc,
    envAdvance_relc, envAdvance_env_other k fs d l h]

/-- The level of a channel's follower: its rectified sample, linked towards the larger one. -/
def linkedLevel (F : NumFormat) (d : Dyn) (sL sR x : NUM) : NUM := linkBlend F d.link x.abs (F.max sL.abs sR.abs)

/-- Both followers advance from the state before the step; the gains are those of their new envelopes. -/
theorem detect_eq (k : Params) (fs : NUM) (d : Dyn) (sL sR : NUM) :
    let lL := linkedLevel k.num d sL sR sL
    let lR := linkedLevel k.num d sL sR sR
    let gL := gcCompute k d (envelopeNext k fs d .ch0 lL)
    let gR := gcCompute k d (envelopeNext k fs d .ch1 lR)
    detect k fs d sL sR =
      ({ d with
          ar := { ch0 := slowNext k.num d .ch0 lL, ch1 := slowNext k.num d .ch1 lR }
          env := { ch0 := envelopeNext k fs d .ch0 lL, ch1 := envelopeNext k fs d .ch1 lR }
          grmax := k.num.max d.grmax (k.num.max gL.1 gR.1) }, gL.2, gR.2) := by
  have hne : Chan.ch1 ≠ .ch0 := by decide
  simp only [detect, gcCompute_envAdvance, envAdvance_env_get, envAdvance_env_other _ _ _ _ hne.symm, envAdvance_link,
    envelopeNext_envAdvance_other _ _ _ _ _ hne]
  rw [envAdvance_eq k fs (envAdvance k fs d _ _), slowNext_envAdvance_other _ _ _ _ _ hne,
    envelopeNext_envAdvance_other _ _ _ _ _ hne, envAdvance_eq]
  rfl

/-- Settles O43: the step of the detector, spelled out. -/
theorem dynStepRunsTheDetector : Obligations.DynStepRunsTheDetector := by
  unfold Obligations.DynStepRunsTheDetector
  intro s sL sR hprep
  refine ⟨rfl, ?_⟩
  rw [exec_of_prep _ hprep, effect, answer, detect_eq]
  rfl

/-- Settles O44: both commands have the same effect, that of one step of the detector. -/
theorem dynStepmIsTheDualMonoStep : Obligations.DynStepmIsTheDualMonoStep := by
  unfold Obligations.DynStepmIsTheDualMonoStep
  intro s x hprep
  exact ⟨rfl, { s with dyn := (detect s.cfg s.fs s.dyn x x).1 }, _, _, exec_of_prep _ hprep, exec_of_prep _ hprep, rfl,
    rfl⟩

/-- Settles O45. -/
theorem dynPubPublishesThePeak : Obligations.DynPubPublishesThePeak := by
  unfold Obligations.DynPubPublishesThePeak
  intro s hprep
  exact ⟨rfl, exec_silent_of_prep rfl hprep⟩

/-! ### Without the stereo link (43 R187 a) -/

/-- A rectified word is finite, deliverable, and ordered by its magnitude. -/
theorem key_abs (x : NUM) : x.abs.key = x.mag := by
  simp [NUM.key]

/-- The larger of two rectified words, less one of them, is finite. -/
theorem finite_sub_of_mag_le {F : NumFormat} {m l : NUM} (hm : F.isFinite m = true) (hl : F.isFinite l = true)
    (hmn : m.isNeg = false) (hln : l.isNeg = false) (hle : l.mag ≤ m.mag) : F.isFinite (F.sub m l) = true := by
  have hunits : F.units l ≤ F.units m := F.unitsOfMag_strictMono.monotone hle
  rw [sub_of_finite hm hl, toInt_of_not_neg hmn, toInt_of_not_neg hln]
  refine decide_eq_true ?_
  rw [(F.roundInt_spec _ _).1]
  refine Nat.lt_of_le_of_lt (F.settle_le _) (Nat.lt_of_le_of_lt ?_ (mag_lt_of_finite hm))
  refine roundMag_le_of_le (mag_lt_of_finite hm) ?_
  change _ ≤ F.units m
  omega

/-- The larger rectified word of two finite ones. -/
theorem max_abs_spec {F : NumFormat} {a b : NUM} (ha : F.isFinite a.abs = true) (hb : F.isFinite b.abs = true) :
    F.isFinite (F.max a.abs b.abs) = true ∧ (F.max a.abs b.abs).isNeg = false ∧
      a.abs.mag ≤ (F.max a.abs b.abs).mag ∧ b.abs.mag ≤ (F.max a.abs b.abs).mag := by
  rw [max_of_finite ha hb, key_abs, key_abs]
  simp only [NUM.abs_mag]
  split
  · exact ⟨ha, a.abs_isNeg, by rw [NUM.abs_mag], by rw [NUM.abs_mag]; omega⟩
  · exact ⟨hb, b.abs_isNeg, by rw [NUM.abs_mag]; omega, by rw [NUM.abs_mag]⟩

/-- With LINK = 0 a rectified level is not moved. -/
theorem linkBlend_zero {F : NumFormat} {l m : NUM} (hl : deliverable F l = true) (hln : l.isNeg = false)
    (hm : F.isFinite m = true) (hmn : m.isNeg = false) (hle : l.mag ≤ m.mag) : linkBlend F .zero l m = l := by
  have hsub := finite_sub_of_mag_le hm (finite_of_deliverable hl) hmn hln hle
  exact (add_zero_word hl (zero_mul_mag hsub)).2 (.inr hln)

theorem linkedLevel_of_unlinked {F : NumFormat} {d : Dyn} {sL sR : NUM} (hlink : d.link = .zero)
    (hL : deliverable F sL = true) (hR : deliverable F sR = true) :
    linkedLevel F d sL sR sL = sL.abs ∧ linkedLevel F d sL sR sR = sR.abs := by
  have hLa := deliverable_abs hL
  have hRa := deliverable_abs hR
  obtain ⟨hfin, hneg, hleL, hleR⟩ := max_abs_spec (finite_of_deliverable hLa) (finite_of_deliverable hRa)
  rw [linkedLevel, linkedLevel, hlink]
  exact ⟨linkBlend_zero hLa sL.abs_isNeg hfin hneg hleL, linkBlend_zero hRa sR.abs_isNeg hfin hneg hleR⟩

/-- GC.EVAL after ENV.STEP: the gain computer of the state before both. -/
theorem exec_gcEval_of_prep {s : State} (e : NUM) (h : s.status.prep = true) :
    exec (.gcEval e) s = .next
      (s.respond [(gcCompute s.cfg s.dyn e).1.bits, (gcCompute s.cfg s.dyn e).2.bits]) :=
  exec_of_prep _ h

/-- One mono detector: ENV.STEP, and GC.EVAL of its answer. -/
theorem exec_envStep_gcEval_of_prep {s : State} (c : Chan) (level : NUM) (h : s.status.prep = true) :
    let e := envelopeNext s.cfg s.fs s.dyn c level
    ∃ u, exec (.envStep c level) s = .next u ∧ Responds s u [e.bits] ∧
      exec (.gcEval e) u = .next
        (u.respond [(gcCompute s.cfg s.dyn e).1.bits, (gcCompute s.cfg s.dyn e).2.bits]) ∧
      u.dyn.env.get c = e ∧ u.dyn.ar.get c = slowNext s.cfg.num s.dyn c level := by
  refine ⟨_, exec_envStep_of_prep c level h, responds_respond _ rfl rfl, ?_, envAdvance_env_get _ _ _ _ _,
    envAdvance_ar_get _ _ _ _ _⟩
  refine (exec_gcEval_of_prep _ (by exact h)).trans ?_
  simp only [State.respond_cfg, State.respond_dyn, gcCompute_envAdvance]

/-- Settles O46: unlinked, each follower sees its own rectified sample, and the gain computer nothing but its envelope. -/
theorem unlinkedDetectorIsTwoMonoDetectors : Obligations.UnlinkedDetectorIsTwoMonoDetectors := by
  unfold Obligations.UnlinkedDetectorIsTwoMonoDetectors
  intro s sL sR hprep hlink hL hR
  obtain ⟨hlL, hlR⟩ := linkedLevel_of_unlinked hlink hL hR
  have hdetect := detect_eq s.cfg s.fs s.dyn sL sR
  simp only [hlL, hlR] at hdetect
  obtain ⟨u0, henv0, hresp0, hgc0, he0, ha0⟩ := exec_envStep_gcEval_of_prep .ch0 sL.abs hprep
  obtain ⟨u1, henv1, hresp1, hgc1, he1, ha1⟩ := exec_envStep_gcEval_of_prep .ch1 sR.abs hprep
  refine ⟨_, u0, u1, _, _, _, _, _, _, exec_of_prep _ hprep, ?_, henv0, hresp0, hgc0, henv1, hresp1, hgc1, ?_, ?_⟩
  · rw [effect, answer, hdetect]
    exact responds_respond _ rfl rfl
  · rw [State.respond_dyn, effect, hdetect, ← he0, ← he1]
    rfl
  · rw [State.respond_dyn, effect, hdetect, ← ha0, ← ha1]
    rfl

end Sys2Proof.Machine

/-! KW, SW, GI, LA and LM (44_kweight_window.md, 45_gate_loudness.md): the filters, the windows, the partial block, and
what is computed from the history. -/

namespace Sys2Proof.Machine

open NumFormat

/-! ### K-weighting and the publication of the windows -/

/-- Settles O47: the response is the output of the second stage. -/
theorem kwStepRunsBothStages : Obligations.KwStepRunsBothStages := by
  unfold Obligations.KwStepRunsBothStages
  intro s c x hprep
  constructor
  · cases c with
    | ch0 => rfl
    | ch1 => rfl
  · exact exec_of_prep _ hprep

/-- Settles O48. -/
theorem swPushFeedsBothWindows : Obligations.SwPushFeedsBothWindows := by
  unfold Obligations.SwPushFeedsBothWindows
  intro s p hprep
  exact ⟨rfl, exec_silent_of_prep rfl hprep⟩

/-- Settles O50: `meanSquare` and `lufs` spelled out. -/
theorem lmPubPublishesTheWindowMeans : Obligations.LmPubPublishesTheWindowMeans := by
  unfold Obligations.LmPubPublishesTheWindowMeans
  intro s hprep
  exact ⟨rfl, exec_silent_of_prep rfl hprep⟩

/-! ### The windows (44 R203) -/

/-- A queue within its capacity loses nothing. -/
theorem evict_of_fits (F : NumFormat) {cap cnt : U32} (q : List NUM) (sum : NUM) (h : cnt ≤ cap) :
    evict F cap q cnt sum = { q := q, cnt := cnt, sum := sum } := by
  cases q with
  | nil => rfl
  | cons v q => rw [evict, if_neg (BitVec.not_lt.2 h)]

/-- A queue one above its capacity loses its oldest entry. -/
theorem evict_of_one_over (F : NumFormat) {cap cnt : U32} (v : NUM) (q : List NUM) (sum : NUM) (h : cap < cnt)
    (h' : cnt - 1 ≤ cap) : evict F cap (v :: q) cnt sum = { q := q, cnt := cnt - 1, sum := F.sub sum v } := by
  rw [evict, if_pos h, evict_of_fits F q _ h']

theorem toNat_add_one {x cap : U32} (hx : x.toNat ≤ cap.toNat) (hcap : cap.toNat + 1 < 2 ^ 32) :
    (x + 1).toNat = x.toNat + 1 := by
  rw [BitVec.toNat_add]
  exact Nat.mod_eq_of_lt (by simp; omega)

/-- A push into a window with room. -/
theorem windowPush_of_room (F : NumFormat) {w : Window} {cap : U32} (p : NUM) (hw : WindowOk cap w)
    (hcap : cap.toNat + 1 < 2 ^ 32) (h : w.q.length < cap.toNat) :
    windowPush F w cap p = { q := w.q ++ [p], cnt := w.cnt + 1, sum := F.add w.sum p } := by
  obtain ⟨hcnt, hle⟩ := hw
  have hnext := toNat_add_one (x := w.cnt) (by omega) hcap
  exact evict_of_fits F _ _ (BitVec.le_def.2 (by omega))

/-- A push into a full window: the new entry is added and then the oldest taken off. -/
theorem windowPush_of_full (F : NumFormat) {w : Window} {cap : U32} (p v : NUM) {q : List NUM} (hw : WindowOk cap w)
    (hcap : cap.toNat + 1 < 2 ^ 32) (h : w.q.length = cap.toNat) (hq : w.q ++ [p] = v :: q) :
    windowPush F w cap p = { q := q, cnt := w.cnt, sum := F.sub (F.add w.sum p) v } := by
  obtain ⟨hcnt, hle⟩ := hw
  have hnext := toNat_add_one (x := w.cnt) (by omega) hcap
  have hback : w.cnt + 1 - 1 = w.cnt := by rw [BitVec.add_sub_cancel]
  rw [windowPush, hq, evict_of_one_over F v q _ (BitVec.lt_def.2 (by omega)) (by rw [hback, BitVec.le_def]; omega),
    hback]

/-- A window within its capacity stays so. -/
theorem windowPush_ok (F : NumFormat) {w : Window} {cap : U32} (p : NUM) (hw : WindowOk cap w)
    (hcap : cap.toNat + 1 < 2 ^ 32) : WindowOk cap (windowPush F w cap p) := by
  obtain ⟨hcnt, hle⟩ := hw
  rcases Nat.lt_or_eq_of_le hle with hroom | hfull
  · rw [windowPush_of_room F p ⟨hcnt, hle⟩ hcap hroom]
    have hnext := toNat_add_one (x := w.cnt) (by omega) hcap
    have hlen : (w.q ++ [p]).length = w.q.length + 1 := by simp
    constructor <;> dsimp only <;> omega
  · obtain ⟨v, q, hq⟩ : ∃ v q, w.q ++ [p] = v :: q := List.exists_cons_of_ne_nil (by simp)
    have hlen := congrArg List.length hq
    rw [List.length_append, List.length_singleton, List.length_cons] at hlen
    rw [windowPush_of_full F p v ⟨hcnt, hle⟩ hcap hfull hq]
    constructor <;> dsimp only <;> omega

/-- Settles O49: by whether the window has room. -/
theorem windowKeepsTheNewestEntries : Obligations.WindowKeepsTheNewestEntries := by
  unfold Obligations.WindowKeepsTheNewestEntries
  intro F w cap p hw hcap1 hcap
  refine ⟨windowPush_ok F p hw hcap, ?_, fun hroom => ?_, fun v q hq hfull => ?_⟩
  · rcases Nat.lt_or_eq_of_le hw.2 with hroom | hfull
    · rw [windowPush_of_room F p hw hcap hroom, show w.q.length + 1 - cap.toNat = 0 by omega, List.drop_zero]
    · obtain ⟨v, q, hq⟩ : ∃ v q, w.q ++ [p] = v :: q := List.exists_cons_of_ne_nil (by simp)
      rw [windowPush_of_full F p v hw hcap hfull hq, hq, show w.q.length + 1 - cap.toNat = 1 by omega]
      rfl
  · rw [windowPush_of_room F p hw hcap hroom]
  · rw [windowPush_of_full F p v (q := q ++ [p]) hw hcap hfull (by rw [hq, List.cons_append])]

/-! ### The partial block and the history (45 R220 to R222) -/

/-- Settles O51. -/
theorem giAccClosesBlocksAtN100 : Obligations.GiAccClosesBlocksAtN100 := by
  unfold Obligations.GiAccClosesBlocksAtN100
  intro s p hprep
  exact ⟨rfl, exec_silent_of_prep rfl hprep⟩

/-- The readouts after an acceptance, field by field. -/
theorem acceptReadouts_eq (k : Params) (m : Meter) (r : Readouts) :
    acceptReadouts k m r =
      { r with
        integ := integrated k m
        lra := if k.lraMinBlk < m.n then loudnessRange k.num m else r.lra
        dr := if k.lraMinBlk < m.n then k.num.min (loudnessRange k.num m) k.drMax else r.dr } := by
  unfold acceptReadouts
  split <;> rfl

/-- Settles O52: the two tests of the offer, and the readouts after an acceptance. -/
theorem laOfferGatesStoresAndRecomputes : Obligations.LaOfferGatesStoresAndRecomputes := by
  unfold Obligations.LaOfferGatesStoresAndRecomputes
  intro s ms hprep
  refine ⟨rfl, ?_⟩
  rw [exec_silent_of_prep rfl hprep, effect, offerBlock]
  cases hgate : s.cfg.num.gt (lufs s.cfg ms) s.cfg.absGate with
  | false => rfl
  | true =>
    rw [if_pos rfl, if_neg (show ¬ (true = false) by decide)]
    simp only [acceptReadouts_eq]
    rfl

/-- Settles O55: one sample of the meter, spelled out. -/
theorem lmStepRunsThePipeline : Obligations.LmStepRunsThePipeline := by
  unfold Obligations.LmStepRunsThePipeline
  intro s xL xR hprep
  exact ⟨rfl, exec_silent_of_prep rfl hprep⟩

/-- Settles O56: both commands have the same effect. -/
theorem lmStepmIsTheDualMonoStep : Obligations.LmStepmIsTheDualMonoStep := by
  unfold Obligations.LmStepmIsTheDualMonoStep
  intro s x hprep
  exact ⟨rfl, meterSample x x s, exec_silent_of_prep rfl hprep, exec_silent_of_prep rfl hprep⟩

/-! ### The integrated loudness (45 R223) -/

/-- The loop's sum and count over the indices kept are those of the values kept, in their order. -/
theorem loopSum_eq (F : NumFormat) (ms : List NUM) (keep : Nat → Bool) (n : Nat) :
    loopSum F ms keep n =
      (sumFrom F (((List.range n).filter keep).map fun i => ms.getD i .zero), ((List.range n).filter keep).length) := by
  induction n with
  | zero => rfl
  | succ n ih =>
    rw [loopSum, ih, List.range_succ, List.filter_append]
    cases h : keep n <;> simp [h, sumFrom]

theorem map_getD_range (ms : List NUM) : (List.range ms.length).map (fun i => ms.getD i .zero) = ms := by
  refine List.ext_getElem (by simp) fun i h1 h2 => ?_
  simp [h2]

/-- The kept blocks by index. -/
theorem keptBlocks_eq (F : NumFormat) (thr : NUM) (ms lu : List NUM) (h : lu.length = ms.length) :
    keptBlocks F thr ms lu =
      ((List.range ms.length).filter fun i => F.ge (lu.getD i .zero) thr).map fun i => ms.getD i .zero := by
  have hzip : ms.zip lu = (List.range ms.length).map fun i => (ms.getD i .zero, lu.getD i .zero) := by
    refine List.ext_getElem (by simp [h]) fun i h1 h2 => ?_
    have hi : i < ms.length := by simpa using h2
    simp [hi, h ▸ hi]
  rw [keptBlocks, hzip, List.filter_map, List.map_map]
  rfl

/-- Pass 2: the sum and the count of the kept blocks. -/
theorem loopSum_keptBlocks (F : NumFormat) (thr : NUM) (ms lu : List NUM) (h : lu.length = ms.length) :
    loopSum F ms (fun i => F.ge (lu.getD i .zero) thr) ms.length =
      (sumFrom F (keptBlocks F thr ms lu), (keptBlocks F thr ms lu).length) := by
  rw [loopSum_eq, keptBlocks_eq F thr ms lu h, List.length_map]

/-- Pass 1: the sum of all blocks. -/
theorem loopSum_all (F : NumFormat) (ms : List NUM) :
    (loopSum F ms (fun _ => true) ms.length).1 = sumFrom F ms := by
  rw [loopSum_eq, List.filter_eq_self.2 fun _ _ => rfl, map_getD_range]

/-- Settles O53: pass 1 keeps every index, pass 2 those of the kept blocks. -/
theorem integratedIsTheTwoPassLoop : Obligations.IntegratedIsTheTwoPassLoop := by
  unfold Obligations.IntegratedIsTheTwoPassLoop
  intro k m hn hlu
  have hcount : BitVec.ofNat 32 m.blkMS.length = m.n := by rw [← hn, BitVec.ofNat_toNat, BitVec.setWidth_eq]
  rw [integratedByIndex, integrated]
  rw [loopSum_all, hcount, loopSum_keptBlocks _ _ _ _ hlu]
  simp only [List.isEmpty_iff, List.length_eq_zero_iff]

/-! ### The loudness range (45 R224) -/

theorem insertNum_perm (F : NumFormat) (x : NUM) (l : List NUM) : (insertNum F x l).Perm (x :: l) := by
  induction l with
  | nil => exact .refl _
  | cons y ys ih =>
    rw [insertNum]
    split
    · exact .refl _
    · exact (ih.cons y).trans (.swap x y ys)

theorem sortNums_perm (F : NumFormat) (l : List NUM) : (sortNums F l).Perm l := by
  induction l with
  | nil => exact .refl _
  | cons x xs ih => exact (insertNum_perm F x _).trans (ih.cons x)

theorem le_of_finite {F : NumFormat} {a b : NUM} (ha : F.isFinite a = true) (hb : F.isFinite b = true) :
    F.le a b = decide (a.key ≤ b.key) := by
  simp [NumFormat.le, NumFormat.test, finite2_of_finite ha hb]

/-- A value is put between those that are not above it and those that are not below it. -/
theorem insertNum_sorted {F : NumFormat} {x : NUM} {l : List NUM} (hx : F.isFinite x = true)
    (hl : ∀ y ∈ l, F.isFinite y = true) (hs : l.Pairwise fun a b => a.key ≤ b.key) :
    (insertNum F x l).Pairwise fun a b => a.key ≤ b.key := by
  induction l with
  | nil => exact List.pairwise_singleton _ _
  | cons y ys ih =>
    obtain ⟨hy, hys⟩ := List.pairwise_cons.1 hs
    rw [insertNum, le_of_finite hx (hl y List.mem_cons_self)]
    by_cases hle : x.key ≤ y.key
    · rw [if_pos (decide_eq_true hle)]
      refine List.pairwise_cons.2 ⟨fun z hz => ?_, hs⟩
      rcases List.mem_cons.1 hz with rfl | hz
      · exact hle
      · exact Int.le_trans hle (hy z hz)
    · rw [if_neg (by simpa using hle)]
      refine List.pairwise_cons.2 ⟨fun z hz => ?_, ih (fun z hz => hl z (List.mem_cons_of_mem _ hz)) hys⟩
      rcases List.mem_cons.1 ((insertNum_perm F x ys).mem_iff.1 hz) with rfl | hz
      · omega
      · exact hy z hz

theorem sortNums_sorted {F : NumFormat} {l : List NUM} (hl : ∀ y ∈ l, F.isFinite y = true) :
    (sortNums F l).Pairwise fun a b => a.key ≤ b.key := by
  induction l with
  | nil => exact List.Pairwise.nil
  | cons x xs ih =>
    have hxs : ∀ y ∈ xs, F.isFinite y = true := fun y hy => hl y (List.mem_cons_of_mem _ hy)
    exact insertNum_sorted (hl x List.mem_cons_self) (fun y hy => hxs y ((sortNums_perm F xs).mem_iff.1 hy)) (ih hxs)

theorem loIndex_eq (n : U32) : loIndex n = n.toNat / 10 := by
  simp [loIndex]

/-- The product does not wrap for a history of the permitted size. -/
theorem hiIndex_eq {n : U32} (h : n.toNat * 95 < 2 ^ 32) : hiIndex n = n.toNat * 95 / 100 := by
  have h95 : (95 : U32).toNat = 95 := rfl
  have h100 : (100 : U32).toNat = 100 := rfl
  rw [hiIndex, BitVec.toNat_udiv, BitVec.toNat_mul, h95, h100, Nat.mod_eq_of_lt h]

/-- Settles O54: the sort, and the two indices without wrapping. -/
theorem rangeReadsTheSortedHistory : Obligations.RangeReadsTheSortedHistory := by
  unfold Obligations.RangeReadsTheSortedHistory
  intro F m
  refine ⟨sortNums_perm F _, sortNums_sorted, fun hn hpos hfits => ?_⟩
  have hlen := (sortNums_perm F m.blkLU).length_eq
  refine ⟨?_, by omega, by omega⟩
  rw [loudnessRange, hiIndex_eq hfits, loIndex_eq, hn]

end Sys2Proof.Machine

/-! PREPARE and RESET (46_system.md). -/

namespace Sys2Proof.Machine

/-! ### PREPARE (46 R251) -/

theorem rateAccepted_iff {k : Params} {fs : NUM} :
    rateAccepted k fs = true ↔ k.num.ieeeLe k.fsMin fs = true ∧ k.num.ieeeLe fs k.fsMax = true := by
  simp [rateAccepted]

theorem exec_prepare_of_accepted {s : State} {fs : NUM} (bs : U32) (h : rateAccepted s.cfg fs = true) :
    exec (.prepare fs bs) s = .next (prepared fs bs s) := by
  rw [exec_prepare, effect, if_pos h]

theorem exec_prepare_of_rejected {s : State} {fs : NUM} (bs : U32) (h : ¬ rateAccepted s.cfg fs = true) :
    exec (.prepare fs bs) s = .next s.setIll := by
  rw [exec_prepare, effect, if_neg h]

/-- A chain after an accepted PREPARE. -/
theorem prepared_ch_get (fs : NUM) (bs : U32) (s : State) (c : Chan) :
    (prepared fs bs s).ch.get c = clearChain (prepareChain s.cfg fs (s.ch.get c)) :=
  Duo.get_map _ _ _

/-- Its stages: the sets of the new rate and frequency, and cleared delay lines. -/
theorem prepareChain_stage (k : Params) (fs : NUM) (h : Chain) (i : Fin 4) :
    (clearChain (prepareChain k fs h)).stage.get i =
      { coef := stageSetAsWritten k h.ty (clampFreq k fs h.freq) h.order.toNat i fs, st := clearedDelay } := by
  rw [clearChain_stage, Four.get_map, ← chainCoef_eq_asWritten, clearBiquad]
  congr 1
  exact recomputeChain_coef k fs _ i

/-- Settles O26: an accepted rate gives the state `prepared`, field by field; any other only sets ILL. -/
theorem prepareReinitialises : Obligations.PrepareReinitialises := by
  unfold Obligations.PrepareReinitialises
  intro s fs bs
  refine ⟨rfl, fun h => ?_, fun hmin hmax => ?_⟩
  · exact exec_prepare_of_rejected bs (mt rateAccepted_iff.1 h)
  · refine ⟨_, exec_prepare_of_accepted bs (rateAccepted_iff.2 ⟨hmin, hmax⟩), rfl, rfl, rfl, rfl, rfl, rfl,
      fun c => ?_, fun c => ?_, rfl, rfl, rfl, rfl, rfl, rfl, rfl⟩
    · exact Duo.get_map _ _ _
    · rw [prepared_ch_get]
      exact ⟨rfl, rfl, rfl, rfl, fun i => prepareChain_stage s.cfg fs _ i⟩

/-! ### RESET (46 R252) -/

theorem encode_reset {units : Nat} (h : units < 16) :
    encode (.reset units) = [0x02000000 + BitVec.ofNat 32 (units * 2 ^ 16)] := by
  rw [encode, Nat.mod_eq_of_lt h, headerWord, Nat.add_zero, BitVec.ofNat_add]
  rfl

/-- The unit mask is read bit by bit. -/
theorem unitSelected_eq_testBit (units i : Nat) : unitSelected units i = units.testBit i := by
  rw [unitSelected, Nat.testBit_eq_decide_div_mod_eq]
  rfl

/-- Settles O27: unit by unit. -/
theorem resetClearsTheSelectedUnits : Obligations.ResetClearsTheSelectedUnits := by
  unfold Obligations.ResetClearsTheSelectedUnits
  intro s units hunits hprep
  refine ⟨encode_reset hunits, _, exec_silent_of_prep rfl hprep, ?_⟩
  simp only [← unitSelected_eq_testBit]
  refine ⟨fun c => ?_, fun c => ?_, rfl, rfl, rfl⟩
  · simp only [effect, resetUnits]
    split
    · exact Duo.get_map _ _ _
    · rfl
  · simp only [effect, resetUnits]
    split
    · exact Duo.get_map _ _ _
    · rfl

end Sys2Proof.Machine

/-! The sample counts, the windows and the partial block (10 R45, R46): every step keeps them. -/

namespace Sys2Proof.Machine

open NumFormat

/-! ### The counts of a sample rate (00 R10) -/

/-- An accepted rate has at least the units of FS_MIN and at most those of FS_MAX. -/
theorem units_of_rateAccepted {k : Params} {fs : NUM} (hk : ParamsSane k) (h : rateAccepted k fs = true) :
    k.num.units k.fsMin ≤ k.num.units fs ∧ k.num.units fs ≤ k.num.units k.fsMax := by
  have hmags : k.fsMin.mag ≤ fs.mag ∧ fs.mag ≤ k.fsMax.mag := by
    obtain ⟨hmin, hmax⟩ := rateAccepted_iff.1 h
    simp only [ieeeLe, Bool.and_eq_true, decide_eq_true_eq, NUM.key, hk.minPositive, hk.maxPositive] at hmin hmax
    obtain ⟨-, hlo⟩ := hmin
    obtain ⟨-, hhi⟩ := hmax
    cases hneg : fs.isNeg <;> simp [hneg] at hlo hhi <;> omega
  have hmono := k.num.unitsOfMag_strictMono.monotone
  exact ⟨hmono hmags.1, hmono hmags.2⟩

/-- A count that fits for FS_MAX does not wrap for a rate below it. -/
theorem floorScaled_toNat {k : Params} {fs : NUM} {t : Frac} (hfs : k.num.units fs ≤ k.num.units k.fsMax)
    (ht : countFits k k.fsMax t) :
    (k.num.floorScaled fs t).toNat = k.num.units fs * t.num / (t.den * 2 ^ k.num.unitExp) ∧
      (k.num.floorScaled fs t).toNat + 1 < 2 ^ 32 := by
  have hscaled : k.num.units fs * t.num < (2 ^ 32 - 1) * (t.den * 2 ^ k.num.unitExp) :=
    Nat.lt_of_le_of_lt (Nat.mul_le_mul_right _ hfs) ht
  have hquot : k.num.units fs * t.num / (t.den * 2 ^ k.num.unitExp) < 2 ^ 32 - 1 :=
    Nat.div_lt_of_lt_mul (hscaled.trans_eq (Nat.mul_comm _ _))
  have hval : (k.num.floorScaled fs t).toNat = k.num.units fs * t.num / (t.den * 2 ^ k.num.unitExp) := by
    rw [floorScaled, BitVec.toNat_ofNat, Nat.mod_eq_of_lt (by omega)]
  exact ⟨hval, by omega⟩

/-- The capacity of a window does not wrap when one more entry is counted. -/
theorem floorScaled_succ_lt {k : Params} {fs : NUM} {t : Frac} (hk : ParamsSane k) (h : rateAccepted k fs = true)
    (ht : countFits k k.fsMax t) : (k.num.floorScaled fs t).toNat + 1 < 2 ^ 32 :=
  (floorScaled_toNat (units_of_rateAccepted hk h).2 ht).2

/-- A block of an accepted rate has at least one sample. -/
theorem n100_pos {k : Params} {fs : NUM} (hk : ParamsSane k) (h : rateAccepted k fs = true) :
    0 < k.num.floorScaled fs k.tBlk := by
  obtain ⟨hmin, hmax⟩ := units_of_rateAccepted hk h
  have hone : k.tBlk.den * 2 ^ k.num.unitExp ≤ k.num.units fs * k.tBlk.num :=
    hk.minSamples.trans (Nat.mul_le_mul_right _ hmin)
  have hden : 0 < k.tBlk.den * 2 ^ k.num.unitExp := by
    have hfits : countFits k k.fsMax k.tBlk := hk.blockFits
    exact Nat.pos_of_mul_pos_left (Nat.zero_lt_of_lt hfits)
  rw [BitVec.lt_def, (floorScaled_toNat hmax hk.blockFits).1]
  exact Nat.div_pos hone hden

/-! ### What the commands do to the windows and the partial block -/

theorem emptyWindow_ok (cap : U32) : WindowOk cap emptyWindow := ⟨rfl, Nat.zero_le _⟩

/-- A command that feeds the windows pushes one power into both. -/
theorem effect_windows_of_feedsWindows {i : Instr} (s : State) (hf : feedsWindows i = true) :
    ∃ p, (effect i s).lm.winM = windowPush s.cfg.num s.lm.winM s.n400 p ∧
      (effect i s).lm.winS = windowPush s.cfg.num s.lm.winS s.n3s p := by
  cases i with
  | swPush p => exact ⟨p, rfl, rfl⟩
  | lmStep xL xR => exact ⟨_, gateAcc_lm_winM _ _, gateAcc_lm_winS _ _⟩
  | lmStepm x => exact ⟨_, gateAcc_lm_winM _ _, gateAcc_lm_winS _ _⟩
  | _ => cases hf

/-- The partial block after one more sample: restarted, or one sample longer and still incomplete. -/
theorem gateAcc_lm_gcnt (p : NUM) (s : State) :
    (gateAcc p s).lm.gcnt = 0 ∨ ((gateAcc p s).lm.gcnt = s.lm.gcnt + 1 ∧ s.lm.gcnt + 1 < s.n100) := by
  rcases gateAcc_cases p s with ⟨-, h⟩ | ⟨hopen, h⟩ <;> rw [h]
  · exact .inl (offerBlock_lm_gcnt _ _)
  · exact .inr ⟨rfl, BitVec.not_le.1 hopen⟩

theorem effect_gcnt_of_feedsGate {i : Instr} (s : State) (hf : feedsGate i = true) :
    (effect i s).lm.gcnt = 0 ∨ ((effect i s).lm.gcnt = s.lm.gcnt + 1 ∧ s.lm.gcnt + 1 < s.n100) := by
  cases i with
  | giAcc p => exact gateAcc_lm_gcnt p s
  | lmStep xL xR => exact gateAcc_lm_gcnt _ _
  | lmStepm x => exact gateAcc_lm_gcnt _ _
  | _ => cases hf

/-- RESET of the meter, as PREPARE, empties both windows and restarts the partial block. -/
theorem effect_meter_of_reset {i : Instr} (s : State) (hp : isPrepare i = false) (hr : restartsUnit 3 i = true) :
    (effect i s).lm = clearMeter s.lm := by
  cases i with
  | reset units => exact if_pos hr
  | prepare fs bs => cases hp
  | _ => cases hr

/-- Only an accepted command reaches a window, so PREP is set there; the three that run before PREPARE reach none. -/
theorem prep_of_feedsWindows {i : Instr} {s : State} (ha : accepts s i = true) (hf : feedsWindows i = true) :
    s.status.prep = true := by
  cases i with
  | swPush | lmStep | lmStepm => simpa [accepts, legalUnprepared] using ha
  | _ => cases hf

/-- PREP is kept by every command but PREPARE. -/
theorem effect_prep_frame {i : Instr} (s : State) (hp : isPrepare i = false) :
    (effect i s).status.prep = s.status.prep := by
  rw [effect_status_prep, hp, Bool.false_and, Bool.or_false]

/-! ### The invariant -/

theorem effect_keeps_windows {i : Instr} {s : State} (hp : isPrepare i = false) (ha : accepts s i = true)
    (h : SampleCountsOk s) :
    WindowOk s.n400 (effect i s).lm.winM ∧ WindowOk s.n3s (effect i s).lm.winS := by
  cases hf : feedsWindows i with
  | true =>
    have hprep := prep_of_feedsWindows ha hf
    obtain ⟨p, hM, hS⟩ := effect_windows_of_feedsWindows s hf
    rw [hM, hS]
    constructor
    · refine windowPush_ok _ p h.winM ?_
      rw [h.n400 hprep]
      exact floorScaled_succ_lt h.params (h.rate hprep) h.params.windowMFits
    · refine windowPush_ok _ p h.winS ?_
      rw [h.n3s hprep]
      exact floorScaled_succ_lt h.params (h.rate hprep) h.params.windowSFits
  | false =>
    cases hr : restartsUnit 3 i with
    | true =>
      rw [effect_meter_of_reset s hp hr]
      exact ⟨emptyWindow_ok _, emptyWindow_ok _⟩
    | false =>
      obtain ⟨hM, hS⟩ := effect_windows_frame s hf hr
      rw [hM, hS]
      exact ⟨h.winM, h.winS⟩

theorem effect_keeps_gate {i : Instr} {s : State} (hp : isPrepare i = false) (h : s.lm.gcnt < s.n100) :
    (effect i s).lm.gcnt < s.n100 := by
  have hpos : 0 < s.n100 := by bv_omega
  cases hf : feedsGate i with
  | true =>
    rcases effect_gcnt_of_feedsGate s hf with hz | ⟨hg, hlt⟩
    · rwa [hz]
    · rwa [hg]
  | false =>
    cases hr : restartsUnit 3 i with
    | true =>
      rw [effect_meter_of_reset s hp hr]
      exact hpos
    | false => rwa [(effect_gate_frame s hf hr).2]

/-- After an accepted PREPARE the counts are those of the new rate, and windows and partial block are empty. -/
theorem prepared_sampleCountsOk {s : State} {fs : NUM} (bs : U32) (hr : rateAccepted s.cfg fs = true)
    (hk : ParamsSane s.cfg) : SampleCountsOk (prepared fs bs s) where
  params := hk
  winM := emptyWindow_ok _
  winS := emptyWindow_ok _
  rate _ := hr
  n100 _ := rfl
  n400 _ := rfl
  n3s _ := rfl
  gate _ := n100_pos hk hr

theorem setIll_sampleCountsOk {s : State} (h : SampleCountsOk s) : SampleCountsOk s.setIll :=
  { params := h.params, winM := h.winM, winS := h.winS, rate := h.rate, n100 := h.n100, n400 := h.n400,
    n3s := h.n3s, gate := h.gate }

theorem effect_keeps_sampleCounts {i : Instr} {s : State} (ha : accepts s i = true) (h : SampleCountsOk s) :
    SampleCountsOk (effect i s) := by
  cases hp : isPrepare i with
  | true =>
    cases i with
    | prepare fs bs =>
      by_cases hr : rateAccepted s.cfg fs = true
      · rw [effect, if_pos hr]
        exact prepared_sampleCountsOk bs hr h.params
      · rw [effect, if_neg hr]
        exact setIll_sampleCountsOk h
    | _ => cases hp
  | false =>
    obtain ⟨hfs, -, hn100, hn400, hn3s⟩ := effect_rates_frame s hp
    obtain ⟨hM, hS⟩ := effect_keeps_windows hp ha h
    have hcfg := effect_cfg i s
    have hprep := effect_prep_frame s hp
    exact
      { params := by rw [hcfg]; exact h.params
        winM := by rw [hn400]; exact hM
        winS := by rw [hn3s]; exact hS
        rate := by rw [hprep, hcfg, hfs]; exact h.rate
        n100 := by rw [hprep, hn100, hcfg, hfs]; exact h.n100
        n400 := by rw [hprep, hn400, hcfg, hfs]; exact h.n400
        n3s := by rw [hprep, hn3s, hcfg, hfs]; exact h.n3s
        gate := by rw [hprep, hn100]; exact fun hs => effect_keeps_gate hp (h.gate hs) }

/-- Settles O22: by the effect of each command; ports and ILL are no part of the invariant. -/
theorem stepKeepsSampleCounts : Obligations.StepKeepsSampleCounts := by
  unfold Obligations.StepKeepsSampleCounts
  intro s t
  refine step_keeps (P := SampleCountsOk) (fun s a rest h => ?_) (fun s ws h => ?_) (fun s => setIll_sampleCountsOk)
    (fun i s => effect_keeps_sampleCounts)
  · exact { params := h.params, winM := h.winM, winS := h.winS, rate := h.rate, n100 := h.n100, n400 := h.n400,
            n3s := h.n3s, gate := h.gate }
  · exact { params := h.params, winM := h.winM, winS := h.winS, rate := h.rate, n100 := h.n100, n400 := h.n400,
            n3s := h.n3s, gate := h.gate }

end Sys2Proof.Machine

/-! The history and what is computed from it (10 R47, R48, 45 R222, R224): every step keeps them together. -/

namespace Sys2Proof.Machine

open NumFormat

/-! ### What the readouts are computed from -/

theorem integrated_congr {k : Params} {m m' : Meter} (hms : m'.blkMS = m.blkMS) (hlu : m'.blkLU = m.blkLU)
    (hn : m'.n = m.n) : integrated k m' = integrated k m := by
  simp only [integrated, hms, hlu, hn]

theorem loudnessRange_congr {F : NumFormat} {m m' : Meter} (hlu : m'.blkLU = m.blkLU) (hn : m'.n = m.n) :
    loudnessRange F m' = loudnessRange F m := by
  simp only [loudnessRange, hlu, hn]

/-- The invariant is one of the history record alone. -/
theorem HistoryOk.of_historyRecord {s t : State} (h : HistoryOk s) (he : t.historyRecord = s.historyRecord) :
    HistoryOk t := by
  simp only [State.historyRecord, HistoryRecord.mk.injEq] at he
  obtain ⟨hms, hlu, hn, hfull, hinteg, hlra, hdr, hcfg⟩ := he
  have hi := integrated_congr (k := s.cfg) hms hlu hn
  have hr := loudnessRange_congr (F := s.cfg.num) hlu hn
  exact
    { size := by rw [hn, hms]; exact h.size
      capacity := by rw [hn, hcfg]; exact h.capacity
      loudness := by rw [hlu, hms, hcfg]; exact h.loudness
      full := by rw [hfull, hn, hcfg]; exact h.full
      integ := by rw [hinteg, hn, hcfg, hi]; exact h.integ
      lra := by rw [hlra, hn, hcfg, hr]; exact h.lra
      dr := by rw [hdr, hn, hcfg, hr]; exact h.dr }

/-! ### The invariant -/

/-- Storing one block of a history that is not full. -/
theorem HistoryOk.store {s : State} (h : HistoryOk s) (ms : NUM) (hroom : s.lm.n < s.cfg.blkCap) :
    HistoryOk
      { s with
        lm := storeBlock s.lm ms (lufs s.cfg ms)
        ro := acceptReadouts s.cfg (storeBlock s.lm ms (lufs s.cfg ms)) s.ro } := by
  have hnext : (s.lm.n + 1).toNat = s.lm.n.toNat + 1 := by bv_omega
  have hshort : ¬ s.cfg.lraMinBlk < s.lm.n + 1 → ¬ s.cfg.lraMinBlk < s.lm.n := by bv_omega
  refine
    { size := ?size
      capacity := ?capacity
      loudness := ?loudness
      full := ?full
      integ := ?integ
      lra := ?lra
      dr := ?dr }
  case size => rw [storeBlock_n, storeBlock_blkMS, hnext, h.size, List.length_append, List.length_singleton]
  case capacity =>
    rw [storeBlock_n]
    bv_omega
  case loudness =>
    show s.lm.blkLU ++ [lufs s.cfg ms] = (s.lm.blkMS ++ [ms]).map (lufs s.cfg)
    rw [h.loudness, List.map_append, List.map_singleton]
  case full =>
    intro hfull
    have hcap := h.full hfull
    bv_omega
  case integ =>
    have hsome : ¬ s.lm.n + 1 = 0 := by bv_omega
    rw [acceptReadouts_integ, storeBlock_n, if_neg hsome]
  case lra =>
    rw [acceptReadouts_lra, storeBlock_n]
    split
    · rfl
    next hfew => rw [h.lra, if_neg (hshort hfew)]
  case dr =>
    rw [acceptReadouts_dr, storeBlock_n]
    split
    · rfl
    next hfew => rw [h.dr, if_neg (hshort hfew)]

/-- A block that finds the history full raises BLKFULL. -/
theorem HistoryOk.setBlkfull {s : State} (h : HistoryOk s) (hfull : ¬ s.lm.n < s.cfg.blkCap) :
    HistoryOk (s.setBlkfull true) :=
  { size := h.size
    capacity := h.capacity
    loudness := h.loudness
    full := fun _ => BitVec.le_antisymm h.capacity (BitVec.not_lt.1 hfull)
    integ := h.integ
    lra := h.lra
    dr := h.dr }

theorem HistoryOk.offerBlock {s : State} (h : HistoryOk s) (ms : NUM) : HistoryOk (offerBlock ms s) := by
  rcases offerBlock_cases ms s with he | ⟨hroom, he⟩ | ⟨hfull, he⟩ <;> rw [he]
  · exact h
  · exact h.store ms hroom
  · exact h.setBlkfull hfull

/-- An empty history with its readouts, BLKFULL cleared. -/
theorem HistoryOk.of_empty {s : State} (hms : s.lm.blkMS = []) (hlu : s.lm.blkLU = []) (hn : s.lm.n = 0)
    (hfull : s.status.blkfull = false) (hinteg : s.ro.integ = lufs0 s.cfg) (hlra : s.ro.lra = .zero)
    (hdr : s.ro.dr = .zero) : HistoryOk s := by
  have hnone : ¬ s.cfg.lraMinBlk < s.lm.n := by bv_omega
  exact
    { size := by rw [hn, hms]; rfl
      capacity := by bv_omega
      loudness := by rw [hlu, hms]; rfl
      full := fun ht => absurd (hfull.symm.trans ht) (by decide)
      integ := by rw [if_pos hn, hinteg]
      lra := by rw [if_neg hnone, hlra]
      dr := by rw [if_neg hnone, hdr] }

theorem effect_keeps_history {i : Instr} {s : State} (h : HistoryOk s) : HistoryOk (effect i s) := by
  cases hf : feedsHistory i with
  | true =>
    obtain ⟨u, hu, he | ⟨ms, he⟩⟩ := effect_of_feedsHistory s hf <;> rw [he]
    · exact h.of_historyRecord hu
    · exact (h.of_historyRecord hu).offerBlock ms
  | false =>
    by_cases hr : i = .rsti
    · subst hr
      exact .of_empty rfl rfl rfl rfl rfl rfl rfl
    · cases hp : isPrepare i with
      | false => exact h.of_historyRecord (effect_historyRecord s hf hr hp)
      | true =>
        cases i with
        | prepare fs bs =>
          by_cases ha : rateAccepted s.cfg fs = true
          · rw [effect, if_pos ha]
            exact .of_empty rfl rfl rfl rfl rfl rfl rfl
          · rw [effect, if_neg ha]
            exact h.of_historyRecord rfl
        | _ => cases hp

/-- Settles O23: ports and ILL are no part of the record, and every effect keeps the invariant. -/
theorem stepKeepsHistoryAndReadouts : Obligations.StepKeepsHistoryAndReadouts := by
  unfold Obligations.StepKeepsHistoryAndReadouts
  intro s t
  exact step_keeps (fun _ _ _ h => h.of_historyRecord rfl) (fun _ _ h => h.of_historyRecord rfl)
    (fun _ h => h.of_historyRecord rfl) (fun _ _ _ h => effect_keeps_history h)

end Sys2Proof.Machine

/-! The derived coefficients (10 R38, R41, R43): every step keeps them those of the current parameters. Then the four
invariants after reset. -/

namespace Sys2Proof.Machine

/-! ### Chains -/

/-- The invariant of a chain is one of its type, order, frequency and coefficient sets. -/
theorem ChainOk.of_same {k : Params} {fs : NUM} {prep : Bool} {h h' : Chain} (hok : ChainOk k fs prep h)
    (hty : h'.ty = h.ty) (hfreq : h'.freq = h.freq) (horder : h'.order = h.order)
    (hcoef : ∀ i, (h'.stage.get i).coef = (h.stage.get i).coef) : ChainOk k fs prep h' where
  orderMin := by rw [horder]; exact hok.orderMin
  orderMax := by rw [horder]; exact hok.orderMax
  sets hp i := by rw [hcoef, hty, hfreq, horder]; exact hok.sets hp i

theorem clearChain_coef (h : Chain) (i : Fin 4) : ((clearChain h).stage.get i).coef = (h.stage.get i).coef := by
  rw [clearChain_stage, Four.get_map, clearBiquad_coef]

theorem ChainOk.clear {k : Params} {fs : NUM} {prep : Bool} {h : Chain} (hok : ChainOk k fs prep h) :
    ChainOk k fs prep (clearChain h) :=
  hok.of_same rfl rfl rfl (clearChain_coef h)

theorem ChainOk.run {k : Params} {fs : NUM} {prep : Bool} {h : Chain} (hok : ChainOk k fs prep h) (F : NumFormat)
    (x : NUM) : ChainOk k fs prep (chainRun F h x).2 := by
  unfold chainRun
  split
  · exact hok.of_same rfl rfl rfl (runStages_coef F _ _ x)
  · exact hok

theorem setChain_ok (k : Params) (fs : NUM) (prep : Bool) (ty : FilterType) (orderReq : Nat) (freq : NUM) (h : Chain) :
    ChainOk k fs prep (setChain k fs ty orderReq freq h) where
  orderMin := by rw [setChain_order]; exact (clampOrder_bounds _ _).1
  orderMax := by rw [setChain_order]; exact (clampOrder_bounds _ _).2
  sets _ i := by rw [setChain_coef, setChain_order]; rfl

/-- PREPARE recomputes the sets for the new rate, whatever they were. -/
theorem prepareChain_ok {k : Params} {fs fs' : NUM} {prep prep' : Bool} {h : Chain} (hok : ChainOk k fs prep h) :
    ChainOk k fs' prep' (clearChain (prepareChain k fs' h)) where
  orderMin := hok.orderMin
  orderMax := hok.orderMax
  sets _ i := by rw [prepareChain_stage]; rfl

/-- What both channels' chains meet, they still meet when one is replaced by a chain that meets it. -/
theorem forall_get_set {P : Chain → Prop} {d : Duo Chain} (hd : ∀ c, P (d.get c)) {c : Chan} {h : Chain} (hh : P h)
    (c' : Chan) : P ((d.set c h).get c') := by
  by_cases hc : c' = c
  · subst hc
    rwa [Duo.get_set_same]
  · rw [Duo.get_set_other _ _ hc]
    exact hd c'

theorem effect_keeps_chains {i : Instr} {s : State} {prep : Bool} (hp : isPrepare i = false)
    (h : ∀ c, ChainOk s.cfg s.fs prep (s.ch.get c)) (c : Chan) : ChainOk s.cfg s.fs prep ((effect i s).ch.get c) := by
  cases i with
  | prepare fs bs => cases hp
  | chSetp c' ty orderReq freq => exact forall_get_set h (setChain_ok _ _ _ _ _ _ _) c
  | chEn c' en =>
    have hen : ChainOk s.cfg s.fs prep { s.ch.get c' with en := en } := (h c').of_same rfl rfl rfl fun _ => rfl
    exact forall_get_set h hen c
  | chStep c' x => exact forall_get_set h ((h c').run _ x) c
  | chRst c' => exact forall_get_set h (h c').clear c
  | reset units =>
    simp only [effect, resetUnits]
    split
    · rw [Duo.get_map]
      exact (h c).clear
    · exact h c
  | _ =>
    rw [effect_ch_frame s rfl rfl]
    exact h c

/-! ### The detector -/

/-- The three one-pole coefficients are those of the rate and the times (10 R41). -/
structure DetectorOk (k : Params) (fs : NUM) (d : Dyn) : Prop where
  attc : d.attc = onePole k.num fs d.attack
  relc : d.relc = onePole k.num fs d.release
  arc : d.arc = onePole k.num fs k.arTauMs

theorem DetectorOk.of_same {k : Params} {fs : NUM} {d d' : Dyn} (hok : DetectorOk k fs d) (ha : d'.attack = d.attack)
    (hr : d'.release = d.release) (hattc : d'.attc = d.attc) (hrelc : d'.relc = d.relc) (harc : d'.arc = d.arc) :
    DetectorOk k fs d' where
  attc := by rw [hattc, ha]; exact hok.attc
  relc := by rw [hrelc, hr]; exact hok.relc
  arc := by rw [harc]; exact hok.arc

theorem effect_keeps_detector {i : Instr} {s : State} (hp : isPrepare i = false) (h : DetectorOk s.cfg s.fs s.dyn) :
    DetectorOk s.cfg s.fs (effect i s).dyn := by
  cases i with
  | prepare fs bs => cases hp
  | dynAtt v => exact { attc := rfl, relc := h.relc, arc := h.arc }
  | dynRel v => exact { attc := h.attc, relc := rfl, arc := h.arc }
  | dynThr | dynRat | dynKne | dynLnk | dynAuto | dynPub => exact h.of_same rfl rfl rfl rfl rfl
  | envStep c level =>
    exact h.of_same (envAdvance_attack _ _ _ _ _) (envAdvance_release _ _ _ _ _) (envAdvance_attc _ _ _ _ _)
      (envAdvance_relc _ _ _ _ _) (envAdvance_arc _ _ _ _ _)
  | dynStep | dynStepm =>
    exact h.of_same (detect_attack _ _ _ _ _) (detect_release _ _ _ _ _) (detect_attc _ _ _ _ _)
      (detect_relc _ _ _ _ _) (detect_arc _ _ _ _ _)
  | reset units =>
    simp only [effect, resetUnits]
    split
    · exact h.of_same rfl rfl rfl rfl rfl
    · exact h
  | _ =>
    rw [effect_dyn_frame s rfl rfl]
    exact h

/-! ### The invariant -/

/-- The detector's part of the invariant. -/
theorem DerivedOk.detector {s : State} (h : DerivedOk s) (hp : s.status.prep = true) : DetectorOk s.cfg s.fs s.dyn :=
  { attc := h.attc hp, relc := h.relc hp, arc := h.arc hp }

/-- After an accepted PREPARE every coefficient is that of the new rate. -/
theorem prepared_derivedOk {s : State} (fs : NUM) (bs : U32) (h : DerivedOk s) : DerivedOk (prepared fs bs s) where
  chains c := by
    rw [prepared_ch_get]
    exact prepareChain_ok (h.chains c)
  attc _ := rfl
  relc _ := rfl
  arc _ := rfl
  kwc1 _ := rfl
  kwc2 _ := rfl

theorem setIll_derivedOk {s : State} (h : DerivedOk s) : DerivedOk s.setIll :=
  { chains := h.chains, attc := h.attc, relc := h.relc, arc := h.arc, kwc1 := h.kwc1, kwc2 := h.kwc2 }

theorem effect_keeps_derived {i : Instr} {s : State} (h : DerivedOk s) : DerivedOk (effect i s) := by
  cases hp : isPrepare i with
  | true =>
    cases i with
    | prepare fs bs =>
      by_cases hr : rateAccepted s.cfg fs = true
      · rw [effect, if_pos hr]
        exact prepared_derivedOk fs bs h
      · rw [effect, if_neg hr]
        exact setIll_derivedOk h
    | _ => cases hp
  | false =>
    obtain ⟨hfs, -⟩ := effect_rates_frame s hp
    obtain ⟨hkw1, hkw2⟩ := effect_kwCoefs_frame s hp
    have hcfg := effect_cfg i s
    have hprep := effect_prep_frame s hp
    have hdet : s.status.prep = true → DetectorOk (effect i s).cfg (effect i s).fs (effect i s).dyn := by
      rw [hcfg, hfs]
      exact fun hs => effect_keeps_detector hp (h.detector hs)
    exact
      { chains := by rw [hprep, hcfg, hfs]; exact effect_keeps_chains hp h.chains
        attc := fun hs => (hdet (hprep ▸ hs)).attc
        relc := fun hs => (hdet (hprep ▸ hs)).relc
        arc := fun hs => (hdet (hprep ▸ hs)).arc
        kwc1 := by rw [hprep, hcfg, hfs, hkw1]; exact h.kwc1
        kwc2 := by rw [hprep, hcfg, hfs, hkw2]; exact h.kwc2 }

/-- Settles O24: by the effect of each command; ports and ILL are no part of the invariant. -/
theorem stepKeepsDerivedCoefficients : Obligations.StepKeepsDerivedCoefficients := by
  unfold Obligations.StepKeepsDerivedCoefficients
  intro s t
  refine step_keeps (P := DerivedOk) (fun s a rest h => ?_) (fun s ws h => ?_) (fun s => setIll_derivedOk)
    (fun i s _ => effect_keeps_derived)
  · exact { chains := h.chains, attc := h.attc, relc := h.relc, arc := h.arc, kwc1 := h.kwc1, kwc2 := h.kwc2 }
  · exact { chains := h.chains, attc := h.attc, relc := h.relc, arc := h.arc, kwc1 := h.kwc1, kwc2 := h.kwc2 }

/-! ### After reset (10 R53) -/

theorem powerOn_not_prep (k : Params) : ¬ (State.powerOn k).status.prep = true := by
  simp [State.powerOn]

theorem powerOn_sampleCountsOk {k : Params} (hk : ParamsSane k) : SampleCountsOk (State.powerOn k) where
  params := hk
  winM := emptyWindow_ok _
  winS := emptyWindow_ok _
  rate h := absurd h (powerOn_not_prep k)
  n100 h := absurd h (powerOn_not_prep k)
  n400 h := absurd h (powerOn_not_prep k)
  n3s h := absurd h (powerOn_not_prep k)
  gate h := absurd h (powerOn_not_prep k)

theorem powerOn_historyOk (k : Params) : HistoryOk (State.powerOn k) :=
  .of_empty rfl rfl rfl rfl rfl rfl rfl

/-- Both chains have order 1. -/
theorem powerOn_derivedOk (k : Params) : DerivedOk (State.powerOn k) where
  chains c :=
    { orderMin := by cases c <;> exact Nat.le_refl 1
      orderMax := by cases c <;> exact one_le_nstage k.nstage
      sets := fun h => absurd h (powerOn_not_prep k) }
  attc h := absurd h (powerOn_not_prep k)
  relc h := absurd h (powerOn_not_prep k)
  arc h := absurd h (powerOn_not_prep k)
  kwc1 h := absurd h (powerOn_not_prep k)
  kwc2 h := absurd h (powerOn_not_prep k)

theorem powerOn_responsesFit (k : Params) : ResponsesFit (State.powerOn k) := by
  intro a
  cases a <;> exact Nat.zero_le _

/-- The parameters of 00 R6 meet the side conditions of R10. -/
theorem paramsSane_default : ParamsSane Params.default where
  minFinite := by decide +kernel
  minPositive := by decide +kernel
  minSamples := by decide +kernel
  maxFinite := by decide +kernel
  maxPositive := by decide +kernel
  blockFits := by decide +kernel
  windowMFits := by decide +kernel
  windowSFits := by decide +kernel
  history := by decide +kernel

/-- Settles O21: `State.reset` is the power-on state of the default parameters. -/
theorem resetMeetsTheInvariants : Obligations.ResetMeetsTheInvariants := by
  unfold Obligations.ResetMeetsTheInvariants
  have hpower : ∀ k : Params, ParamsSane k → SampleCountsOk (State.powerOn k) ∧ HistoryOk (State.powerOn k) ∧
      DerivedOk (State.powerOn k) ∧ ResponsesFit (State.powerOn k) := fun k hk =>
    ⟨powerOn_sampleCountsOk hk, powerOn_historyOk k, powerOn_derivedOk k, powerOn_responsesFit k⟩
  exact ⟨hpower, paramsSane_default, hpower Params.default paramsSane_default⟩

end Sys2Proof.Machine
